-- ==== Sys2Proof/Word.lean ====
section
/-! DEFINITION. The word types of the block (`00_scope.md` R4, R5): bit 0 is the least significant bit, every
value is unsigned, and bit vector addition is the spec's wrapping `+%`. -/

namespace Sys2Proof

/-- A data byte (`u8`, R4). -/
abbrev Byte := BitVec 8

/-- A CPU bus address (`u16`, R4, R40). -/
abbrev Addr := BitVec 16

/-- A value of the 64-bit master cycle counter (`u64`, R4, R28). -/
abbrev Cycle := BitVec 64

/-- A word as it stands on the request port: 32 bits, enough for the 27 of a request word (R81). -/
abbrev PortWord := BitVec 32

end Sys2Proof
end

