-- ==== Sys2Proof/Config.lean ====
section
/-! DEFINITION. What the spec leaves to the implementation or to the collaborators (`00_scope.md` R4): the states of
the collaborators, their functions, and the open parameters, each a constant with no body. Nothing in Lean can
evaluate one or prove a value of it, so a theorem about the model holds whatever they are.

The state of a collaborator is a number: the spec gives it no structure, any state of a digital device can be
numbered, and the functions that act on it are uninterpreted. DESIGN CHOICE (log entry 3). -/

namespace Sys2Proof

/-- The part of the PPU's state that "is entirely owned by the PPU collaborator" (`10_state.md` R22): scroll and
address latches, OAM pointer, data buffer, the control flags other than `nmi_enable`. -/
structure PpuRest where
  code : Nat
  deriving DecidableEq, Repr, Inhabited

/-- The APU collaborator's state (R23). -/
structure ApuState where
  code : Nat
  deriving DecidableEq, Repr, Inhabited

/-- The OAM-DMA collaborator's state (R24). -/
structure DmaState where
  code : Nat
  deriving DecidableEq, Repr, Inhabited

/-- The controller collaborator's state (R25). -/
structure CtrlState where
  code : Nat
  deriving DecidableEq, Repr, Inhabited

/-- The cartridge collaborator's state (R26). -/
structure CartState where
  code : Nat
  deriving DecidableEq, Repr, Inhabited

/-- The value `getMirroring` returns, an uninterpreted type (R4, `92_eei_decisions.md` D12). -/
structure MirroringMode where
  code : Nat
  deriving DecidableEq, Repr, Inhabited

/-- The four states of the VBlank machine (`43_ppu_registers.md` R181). -/
inductive VblState where
  | clear
  | setPending (at_cycle : Cycle)
  | active
  | suppressedThisFrame
  deriving DecidableEq, Repr

/-- The PPU collaborator's state (`10_state.md` R22): the fields the rules own by name, and the rest. -/
structure Ppu where
  /-- `vblank_flag`, bit 7 of the status byte. -/
  vblankFlag : Bool
  /-- `sprite_0_hit`, bit 6 of the status byte. -/
  sprite0Hit : Bool
  /-- `sprite_overflow`, bit 5 of the status byte. -/
  spriteOverflow : Bool
  /-- `ctrl.nmi_enable`. -/
  nmiEnable : Bool
  /-- `warmup_complete`. -/
  warmupComplete : Bool
  /-- `last_read_cycle`, the cycle of the most recent status READ (R184). -/
  lastReadCycle : Cycle
  /-- `prevent_set_cycle`, the cycle of the cancelled set (R184). -/
  preventSetCycle : Option Cycle
  /-- `vbl_state` (R181). -/
  vblState : VblState
  /-- `mirroring`, the last result of `getMirroring` (`41_handlers.md` R131). -/
  mirroring : MirroringMode
  /-- Everything else. -/
  rest : PpuRest
  deriving DecidableEq, Repr

/-! ### Open parameters -/

/-- `INTERNAL_MASK`: the bits of `int` the masking accessor lets through (`10_state.md` R12). -/
opaque Config.internalMask : Byte

/-- `NMI_ENABLE_BIT`: the bit of a byte written to PPU register 0 that is `ctrl.nmi_enable`
(`43_ppu_registers.md` R174). -/
opaque Config.nmiEnableBit : Fin 8

/-- An arbitrary pattern of RAM bytes (`10_state.md` R16). -/
opaque Config.ramPattern : BitVec 11 → Byte

/-- An arbitrary offset at which the power-on pattern is known not to be zero (R16: "not all-zero"). -/
opaque Config.ramMark : BitVec 11

/-- One less than the byte at that offset, so that the byte is 1 to 255. -/
opaque Config.ramMarkByte : Fin 255

/-- `RAM_INIT`, the power-on contents of RAM: any pattern that has a non-zero byte, the same at every construction
(R16). -/
def Config.ramInit (i : BitVec 11) : Byte :=
  if i = Config.ramMark then BitVec.ofNat 8 (Config.ramMarkByte.val + 1) else Config.ramPattern i

/-! ### Collaborator functions (`10_state.md` R22 to R27)

A `...Read` answers a byte and the collaborator's next state, a `...Write` its next state, a `...Peek` a byte.
`ppuRegRead` and `ppuRegWrite` may look at the whole PPU and answer only its unnamed rest: they leave the named
fields unchanged (`43_ppu_registers.md` R173, R175, D26). -/

opaque Config.ppuRegRead : Ppu → BitVec 3 → Byte → Byte × PpuRest
opaque Config.ppuRegWrite : Ppu → BitVec 3 → Byte → PpuRest

/-- `ApuRead(APU, a, ext, IntMasked())`. -/
opaque Config.apuRead : ApuState → Addr → Byte → Byte → Byte × ApuState
opaque Config.apuWrite : ApuState → Addr → Byte → ApuState
/-- `ApuPeek(APU, a, ext, IntMasked())`. -/
opaque Config.apuPeek : ApuState → Addr → Byte → Byte → Byte

/-- `DmaRead(DMA, a, ext)`. -/
opaque Config.dmaRead : DmaState → Addr → Byte → Byte × DmaState
opaque Config.dmaWrite : DmaState → Addr → Byte → DmaState
opaque Config.dmaPeek : DmaState → Addr → Byte → Byte

/-- `CtrlRead(CTRL, a, ext)`. -/
opaque Config.ctrlRead : CtrlState → Addr → Byte → Byte × CtrlState
opaque Config.ctrlWrite : CtrlState → Addr → Byte → CtrlState
opaque Config.ctrlPeek : CtrlState → Addr → Byte → Byte

/-- `CartRead(CART, a)`, the document's `cpuRead`; the cartridge is given no latch. -/
opaque Config.cartRead : CartState → Addr → Byte × CartState
/-- `CartWrite(CART, a, v)`, the document's `cpuWrite`. -/
opaque Config.cartWrite : CartState → Addr → Byte → CartState
opaque Config.cartPeek : CartState → Addr → Byte
/-- `CartMirroring(CART)`, the document's `getMirroring`. -/
opaque Config.cartMirroring : CartState → MirroringMode

end Sys2Proof
end

