-- ==== Sys2Proof/Syntax.lean ====
section
/-! DEFINITION. The syntax of the block: its ranges, its handlers, and one constructor of `Instr` for each of the
34 rows of `spec/opcode_table.json` (8 `REQ` rows, 18 `ADDR` rows, 8 `PPUREG` rows). -/

namespace Sys2Proof

/-- The eight address ranges, a closed type (`30_encoding.md` R71). -/
inductive Range where
  | ram | ppu | apu | oamDma | apuStatus | controller | cartridge | openBus
  deriving DecidableEq, Repr

/-- The seven handlers of the handler table (`10_state.md` R20, `30_encoding.md` R72). -/
inductive Handler where
  | ram | ppu | apu | oamDma | controller | cartridge | openBus
  deriving DecidableEq, Repr

/-- The three capabilities every handler has: `read(ctx, addr) -> byte`, `write(ctx, addr, byte)`,
`peek(ctx, addr) -> byte` (`41_handlers.md` R136). -/
inductive Capability where
  | read
  | write (v : Byte)
  | peek
  deriving DecidableEq, Repr

/-- The three formats of the opcode table: a request word (R81), an address block (R74), a PPU register (R78). -/
inductive Format where
  | req | addr | ppureg
  deriving DecidableEq, Repr

/-- One constructor per row of the opcode table.

The `REQ` rows are the bus operations (`30_encoding.md` R80); the data field `v` is kept only for WRITE, because
for every other operation it is ignored (R85).

An `ADDR` or `PPUREG` row is the decoder's row for the handler rules it names (`read`, `write` and `peek` in the
row's "rules"): its instruction is the operation READ, WRITE or PEEK at the address `a`, dispatched by that row. So
each such instruction is one of the seven operations, and the set stays closed as R80 says. DESIGN CHOICE (log
entry 1). -/
inductive Instr where
  -- format REQ
  | read (a : Addr)
  | write (a : Addr) (v : Byte)
  | peek (a : Addr)
  | read16 (a : Addr)
  | read16bug (a : Addr)
  | dummyread (a : Addr)
  | dummywrite (a : Addr)
  | reservedOp7
  -- format ADDR
  | ram (a : Addr) (c : Capability)
  | ppu (a : Addr) (c : Capability)
  | apu4000 (a : Addr) (c : Capability)
  | apu4010 (a : Addr) (c : Capability)
  | oamDma (a : Addr) (c : Capability)
  | apuStatus (a : Addr) (c : Capability)
  | controller (a : Addr) (c : Capability)
  | openBus (a : Addr) (c : Capability)
  | cartridge4020 (a : Addr) (c : Capability)
  | cartridge4040 (a : Addr) (c : Capability)
  | cartridge4080 (a : Addr) (c : Capability)
  | cartridge4100 (a : Addr) (c : Capability)
  | cartridge4200 (a : Addr) (c : Capability)
  | cartridge4400 (a : Addr) (c : Capability)
  | cartridge4800 (a : Addr) (c : Capability)
  | cartridge5000 (a : Addr) (c : Capability)
  | cartridge6000 (a : Addr) (c : Capability)
  | cartridge8000 (a : Addr) (c : Capability)
  -- format PPUREG
  | ppureg0 (a : Addr) (c : Capability)
  | ppureg1 (a : Addr) (c : Capability)
  | ppureg2 (a : Addr) (c : Capability)
  | ppureg3 (a : Addr) (c : Capability)
  | ppureg4 (a : Addr) (c : Capability)
  | ppureg5 (a : Addr) (c : Capability)
  | ppureg6 (a : Addr) (c : Capability)
  | ppureg7 (a : Addr) (c : Capability)
  deriving DecidableEq, Repr

end Sys2Proof
end

