-- ==== Sys2Proof/WellFormed.lean ====
section
/-! DEFINITION. Which terms of `Instr` are instructions of the table: the address of an `ADDR` row lies between the
row's first and last address (`20_memory.md` R42, `30_encoding.md` R74), that of a `PPUREG` row lies in the PPU
window and has the row's number in its low three bits (`20_memory.md` R44, `30_encoding.md` R78). The `REQ` rows
take every address and every byte (R40, R48). The checks are written from the table's "first" and "last", the decoder
from its match and mask. -/

namespace Sys2Proof

/-- `a` lies in `first..last`, both included. -/
abbrev Addr.between (first last : Nat) (a : Addr) : Prop := first ≤ a.toNat ∧ a.toNat ≤ last

/-- `a` is an image of PPU register `n` (R44: mirrored every 8 bytes over `0x2000..0x3FFF`). -/
abbrev Addr.imageOfReg (n : Nat) (a : Addr) : Prop := Addr.between 0x2000 0x3FFF a ∧ a.toNat % 8 = n

/-- The instruction's address belongs to its row. -/
def Instr.wellFormed : Instr → Bool
  | .read _ => true
  | .write _ _ => true
  | .peek _ => true
  | .read16 _ => true
  | .read16bug _ => true
  | .dummyread _ => true
  | .dummywrite _ => true
  | .reservedOp7 => true
  | .ram a _ => decide (Addr.between 0x0000 0x1FFF a)
  | .ppu a _ => decide (Addr.between 0x2000 0x3FFF a)
  | .apu4000 a _ => decide (Addr.between 0x4000 0x400F a)
  | .apu4010 a _ => decide (Addr.between 0x4010 0x4013 a)
  | .oamDma a _ => decide (Addr.between 0x4014 0x4014 a)
  | .apuStatus a _ => decide (Addr.between 0x4015 0x4015 a)
  | .controller a _ => decide (Addr.between 0x4016 0x4017 a)
  | .openBus a _ => decide (Addr.between 0x4018 0x401F a)
  | .cartridge4020 a _ => decide (Addr.between 0x4020 0x403F a)
  | .cartridge4040 a _ => decide (Addr.between 0x4040 0x407F a)
  | .cartridge4080 a _ => decide (Addr.between 0x4080 0x40FF a)
  | .cartridge4100 a _ => decide (Addr.between 0x4100 0x41FF a)
  | .cartridge4200 a _ => decide (Addr.between 0x4200 0x43FF a)
  | .cartridge4400 a _ => decide (Addr.between 0x4400 0x47FF a)
  | .cartridge4800 a _ => decide (Addr.between 0x4800 0x4FFF a)
  | .cartridge5000 a _ => decide (Addr.between 0x5000 0x5FFF a)
  | .cartridge6000 a _ => decide (Addr.between 0x6000 0x7FFF a)
  | .cartridge8000 a _ => decide (Addr.between 0x8000 0xFFFF a)
  | .ppureg0 a _ => decide (Addr.imageOfReg 0 a)
  | .ppureg1 a _ => decide (Addr.imageOfReg 1 a)
  | .ppureg2 a _ => decide (Addr.imageOfReg 2 a)
  | .ppureg3 a _ => decide (Addr.imageOfReg 3 a)
  | .ppureg4 a _ => decide (Addr.imageOfReg 4 a)
  | .ppureg5 a _ => decide (Addr.imageOfReg 5 a)
  | .ppureg6 a _ => decide (Addr.imageOfReg 6 a)
  | .ppureg7 a _ => decide (Addr.imageOfReg 7 a)

end Sys2Proof
end

