-- ==== Sys2Proof/Decode.lean ====
section
/-! DEFINITION. The two decoders of the block and the encoder of each: the address decoder (`30_encoding.md` R70 to
R78) and the decoder of the words on the request port (R80 to R86).

A port word of format `REQ` has the op code in bits 26:24, the address in bits 23:8 and the data in bits 7:0 (R81).
A port word of format `ADDR` or `PPUREG` has the address in bits 15:0 (the table's 16 bits) and, above them, the
operands the table gives no bits: the written byte in bits 23:16 and the capability in bits 25:24 (0 read, 1 write,
2 peek, the op codes of READ, WRITE and PEEK). DESIGN CHOICE (log entry 1). -/

namespace Sys2Proof

/-! ### The address decoder -/

/-- `Decode(a)` of R70: total, reads no state, the fallback arm last. -/
def rangeOf (a : Addr) : Range :=
  if 0x0000 ≤ a.toNat ∧ a.toNat ≤ 0x1FFF then .ram
  else if 0x2000 ≤ a.toNat ∧ a.toNat ≤ 0x3FFF then .ppu
  else if 0x4000 ≤ a.toNat ∧ a.toNat ≤ 0x4013 then .apu
  else if a.toNat = 0x4014 then .oamDma
  else if a.toNat = 0x4015 then .apuStatus
  else if 0x4016 ≤ a.toNat ∧ a.toNat ≤ 0x4017 then .controller
  else if 0x4020 ≤ a.toNat ∧ a.toNat ≤ 0xFFFF then .cartridge
  else .openBus

/-- The 3-bit selector code of a range (R71). -/
def Range.code : Range → BitVec 3
  | .ram => 0
  | .ppu => 1
  | .apu => 2
  | .oamDma => 3
  | .apuStatus => 4
  | .controller => 5
  | .cartridge => 6
  | .openBus => 7

/-- The handler a range selects: APU and APU_STATUS share the APU handler (R72). -/
def Range.handler : Range → Handler
  | .ram => .ram
  | .ppu => .ppu
  | .apu => .apu
  | .oamDma => .oamDma
  | .apuStatus => .apu
  | .controller => .controller
  | .cartridge => .cartridge
  | .openBus => .openBus

/-- A row that claims a set of addresses: `a` is in it when `a & mask == match` (R74, R78), together with the
instruction the row stands for. -/
structure AddrRow where
  mtch : Addr
  mask : Addr
  range : Range
  toInstr : Addr → Capability → Instr

/-- The row's test. -/
def AddrRow.claims (r : AddrRow) (a : Addr) : Bool := a &&& r.mask == r.mtch

/-- The 18 blocks of R74, in the table's order. -/
def addrRows : List AddrRow :=
  [ ⟨0x0000, 0xE000, .ram, .ram⟩,
    ⟨0x2000, 0xE000, .ppu, .ppu⟩,
    ⟨0x4000, 0xFFF0, .apu, .apu4000⟩,
    ⟨0x4010, 0xFFFC, .apu, .apu4010⟩,
    ⟨0x4014, 0xFFFF, .oamDma, .oamDma⟩,
    ⟨0x4015, 0xFFFF, .apuStatus, .apuStatus⟩,
    ⟨0x4016, 0xFFFE, .controller, .controller⟩,
    ⟨0x4018, 0xFFF8, .openBus, .openBus⟩,
    ⟨0x4020, 0xFFE0, .cartridge, .cartridge4020⟩ ] ++
  [ ⟨0x4040, 0xFFC0, .cartridge, .cartridge4040⟩,
    ⟨0x4080, 0xFF80, .cartridge, .cartridge4080⟩,
    ⟨0x4100, 0xFF00, .cartridge, .cartridge4100⟩,
    ⟨0x4200, 0xFE00, .cartridge, .cartridge4200⟩,
    ⟨0x4400, 0xFC00, .cartridge, .cartridge4400⟩,
    ⟨0x4800, 0xF800, .cartridge, .cartridge4800⟩,
    ⟨0x5000, 0xF000, .cartridge, .cartridge5000⟩,
    ⟨0x6000, 0xE000, .cartridge, .cartridge6000⟩,
    ⟨0x8000, 0x8000, .cartridge, .cartridge8000⟩ ]

/-- The 8 PPU registers of R78: register `n` is selected when `a & 0xE007 == 0x2000 | n`. -/
def ppuRegRows : List AddrRow :=
  [ ⟨0x2000, 0xE007, .ppu, .ppureg0⟩,
    ⟨0x2001, 0xE007, .ppu, .ppureg1⟩,
    ⟨0x2002, 0xE007, .ppu, .ppureg2⟩,
    ⟨0x2003, 0xE007, .ppu, .ppureg3⟩,
    ⟨0x2004, 0xE007, .ppu, .ppureg4⟩,
    ⟨0x2005, 0xE007, .ppu, .ppureg5⟩,
    ⟨0x2006, 0xE007, .ppu, .ppureg6⟩,
    ⟨0x2007, 0xE007, .ppu, .ppureg7⟩ ]

/-! ### Port words -/

/-- Why the decoder turns a port word away. -/
inductive DecodeError where
  /-- A bit above the format's fields is set: bits 31:27 of a `REQ` word (R81 gives it 27 bits), bits 31:26 of an
  `ADDR` or `PPUREG` word. Safe: no word of the table has such a bit. -/
  | strayBits
  /-- The capability field of an `ADDR` or `PPUREG` word holds 3, which names no capability (R136 has three). Safe. -/
  | noCapability
  /-- A `PPUREG` word's address lies outside `0x2000..0x3FFF`, where R78 selects no register. Safe. -/
  | outsidePpuWindow
  deriving DecidableEq, Repr

/-- Bits `lo + n - 1 : lo` of a port word. -/
def field (lo n : Nat) (w : PortWord) : BitVec n := w.extractLsb' lo n

/-- The operation a `REQ` word spells (R80, R81, R83): op code 7 is the reserved row. -/
def decodeReq (w : PortWord) : Except DecodeError Instr :=
  if field 27 5 w ≠ 0 then .error .strayBits
  else
    let a := field 8 16 w
    let v := field 0 8 w
    .ok (match (field 24 3 w).toNat with
      | 0 => .read a
      | 1 => .write a v
      | 2 => .peek a
      | 3 => .read16 a
      | 4 => .read16bug a
      | 5 => .dummyread a
      | 6 => .dummywrite a
      | _ => .reservedOp7)

/-- The capability operand of an `ADDR` or `PPUREG` word. -/
def decodeCapability (w : PortWord) : Except DecodeError Capability :=
  if field 26 6 w ≠ 0 then .error .strayBits
  else match (field 24 2 w).toNat with
    | 0 => .ok .read
    | 1 => .ok (.write (field 16 8 w))
    | 2 => .ok .peek
    | _ => .error .noCapability

/-- The row of `addrRows` that claims `a`; the fallback row is the last resort, as in R70, though some row always
claims `a` (R75). -/
def decodeAddr (w : PortWord) : Except DecodeError Instr :=
  match decodeCapability w with
  | .error e => .error e
  | .ok c =>
    let a := field 0 16 w
    match addrRows.find? (fun r => r.claims a) with
    | some r => .ok (r.toInstr a c)
    | none => .ok (.openBus a c)

/-- The row of `ppuRegRows` that claims `a`, if the address lies in the PPU window (R78). -/
def decodePpuReg (w : PortWord) : Except DecodeError Instr :=
  match decodeCapability w with
  | .error e => .error e
  | .ok c =>
    let a := field 0 16 w
    match ppuRegRows.find? (fun r => r.claims a) with
    | some r => .ok (r.toInstr a c)
    | none => .error .outsidePpuWindow

/-- The decoder of the request port, total on every word of every format. -/
def decode (f : Format) (w : PortWord) : Except DecodeError Instr :=
  match f with
  | .req => decodeReq w
  | .addr => decodeAddr w
  | .ppureg => decodePpuReg w

/-! ### The encoder -/

/-- A `REQ` word `ooo aaaaaaaaaaaaaaaa vvvvvvvv` (R81), `(op << 24) | (a << 8) | v`; bits 31:27 are zero. -/
def reqWord (op : BitVec 3) (a : Addr) (v : Byte) : PortWord :=
  op.setWidth 32 <<< 24 ||| a.setWidth 32 <<< 8 ||| v.setWidth 32

/-- The code of a capability: that of the operation which invokes it (R80: READ 0, WRITE 1, PEEK 2). -/
def Capability.code : Capability → BitVec 2
  | .read => 0
  | .write _ => 1
  | .peek => 2

/-- The byte a capability carries: the written byte, 0 where there is none. -/
def Capability.data : Capability → Byte
  | .read => 0
  | .write v => v
  | .peek => 0

/-- An `ADDR` or `PPUREG` word: the address with the capability above it. -/
def addrWord (a : Addr) (c : Capability) : PortWord :=
  c.code.setWidth 32 <<< 24 ||| c.data.setWidth 32 <<< 16 ||| a.setWidth 32

/-- The format of the instruction's row. -/
def Instr.format : Instr → Format
  | .read _ | .write _ _ | .peek _ | .read16 _ | .read16bug _ | .dummyread _ | .dummywrite _ | .reservedOp7 => .req
  | .ram _ _ | .ppu _ _ | .apu4000 _ _ | .apu4010 _ _ | .oamDma _ _ | .apuStatus _ _ | .controller _ _
  | .openBus _ _ | .cartridge4020 _ _ | .cartridge4040 _ _ | .cartridge4080 _ _ | .cartridge4100 _ _
  | .cartridge4200 _ _ | .cartridge4400 _ _ | .cartridge4800 _ _ | .cartridge5000 _ _ | .cartridge6000 _ _
  | .cartridge8000 _ _ => .addr
  | .ppureg0 _ _ | .ppureg1 _ _ | .ppureg2 _ _ | .ppureg3 _ _ | .ppureg4 _ _ | .ppureg5 _ _ | .ppureg6 _ _
  | .ppureg7 _ _ => .ppureg

/-- The port word of an instruction; ignored fields are zero. -/
def encode : Instr → PortWord
  | .read a => reqWord 0 a 0
  | .write a v => reqWord 1 a v
  | .peek a => reqWord 2 a 0
  | .read16 a => reqWord 3 a 0
  | .read16bug a => reqWord 4 a 0
  | .dummyread a => reqWord 5 a 0
  | .dummywrite a => reqWord 6 a 0
  | .reservedOp7 => reqWord 7 0 0
  | .ram a c => addrWord a c
  | .ppu a c => addrWord a c
  | .apu4000 a c => addrWord a c
  | .apu4010 a c => addrWord a c
  | .oamDma a c => addrWord a c
  | .apuStatus a c => addrWord a c
  | .controller a c => addrWord a c
  | .openBus a c => addrWord a c
  | .cartridge4020 a c => addrWord a c
  | .cartridge4040 a c => addrWord a c
  | .cartridge4080 a c => addrWord a c
  | .cartridge4100 a c => addrWord a c
  | .cartridge4200 a c => addrWord a c
  | .cartridge4400 a c => addrWord a c
  | .cartridge4800 a c => addrWord a c
  | .cartridge5000 a c => addrWord a c
  | .cartridge6000 a c => addrWord a c
  | .cartridge8000 a c => addrWord a c
  | .ppureg0 a c => addrWord a c
  | .ppureg1 a c => addrWord a c
  | .ppureg2 a c => addrWord a c
  | .ppureg3 a c => addrWord a c
  | .ppureg4 a c => addrWord a c
  | .ppureg5 a c => addrWord a c
  | .ppureg6 a c => addrWord a c
  | .ppureg7 a c => addrWord a c

/-! ### Words as the opcode table numbers them -/

/-- The format of a table word. `REQ` words have more than 16 bits. A 16-bit word whose address lies in the PPU
window matches both the `ADDR` row PPU and one `PPUREG` row; it is read as the finer row. DESIGN CHOICE (log
entry 2). -/
def tableFormat (nbits w : Nat) : Format :=
  if 16 < nbits then .req
  else if 0x2000 ≤ w % 0x10000 ∧ w % 0x10000 ≤ 0x3FFF then .ppureg
  else .addr

/-- The instruction the decoder reads from an opcode-table word. -/
def decodeTableWord (nbits w : Nat) : Option Instr :=
  match decode (tableFormat nbits w) (BitVec.ofNat 32 w) with
  | .ok i => some i
  | .error _ => none

end Sys2Proof
end

