-- ==== Sys2Proof/Machine/State.lean ====
section
/-! DEFINITION. The state of the block (`10_state.md`), what can stop a step, and the state after construction
(R34), which is the block's only reset (`70_reset_and_hazards.md` R220, R223). -/

namespace Sys2Proof.Machine

/-- What an access does not say: the capability used by the read half of DUMMYWRITE (`42_vector_dummy.md` R156). -/
inductive DwReadMode where
  | peek
  | readNoLatch
  deriving DecidableEq, Repr

/-- One call `Observe(address, value, is_write)` of the observer hook (`60_exceptions.md` R210). -/
structure ObserverCall where
  addr : Addr
  value : Byte
  isWrite : Bool
  deriving DecidableEq, Repr

/-- The response port after an operation (`30_encoding.md` R82). -/
inductive Response where
  /-- WRITE, DUMMYREAD and DUMMYWRITE return nothing. -/
  | nothing
  /-- `resp[7:0]` of READ and PEEK. -/
  | byte (x : Byte)
  /-- `resp[15:0]` of READ16 and READ16BUG. -/
  | word (x : BitVec 16)
  deriving DecidableEq, Repr

/-- What the environment may do between two accesses: the clock collaborator (`10_state.md` R28), the four PPU timer
events (`43_ppu_registers.md` R185), the inputs the PPU collaborator gives the block (`warmup_complete`, the sprite
flags: R31, R174), and a collaborator's own moves (`00_scope.md` R6). -/
inductive Event where
  /-- `master_cycle` now reads `n`. -/
  | clock (n : Cycle)
  /-- `Schedule(c)`. -/
  | schedule (c : Cycle)
  /-- `SetDue`. -/
  | setDue
  /-- `EndOfVBlank`. -/
  | endOfVBlank
  /-- `FrameBoundary`. -/
  | frameBoundary
  /-- The PPU warm-up period is over. -/
  | warmupDone
  /-- The rendering pipeline's sprite flags now read so. -/
  | spriteFlags (hit overflow : Bool)
  /-- The PPU's own logic moves its unnamed state. -/
  | ppuMoves (p : PpuRest)
  /-- The APU's own logic moves it. -/
  | apuMoves (p : ApuState)
  /-- The OAM-DMA unit's own logic moves it. -/
  | dmaMoves (p : DmaState)
  /-- The controllers move (a button is pressed). -/
  | ctrlMoves (p : CtrlState)
  /-- The attached cartridge's own logic moves it. -/
  | cartMoves (p : CartState)
  deriving DecidableEq, Repr

/-- What the outside world can do to the block (`00_scope.md` R6, `30_encoding.md` R88). -/
inductive Input where
  /-- A request on the port, with what the environment does between the accesses of a composite operation
  (`20_memory.md` R50, D20). -/
  | word (f : Format) (w : PortWord) (between : List Event)
  /-- The environment moves between two operations. -/
  | event (e : Event)
  /-- The host action AttachCartridge (`70_reset_and_hazards.md` R222). -/
  | attach (cart : CartState)
  deriving DecidableEq, Repr

/-- What the PPU's scanline timer delivers next in its frame: "in each frame the order is `Schedule`, `SetDue`,
`EndOfVBlank`, `FrameBoundary`" (`43_ppu_registers.md` R185). -/
inductive FramePhase where
  /-- `Schedule` comes next. -/
  | start
  /-- `SetDue` comes next. -/
  | scheduled
  /-- `EndOfVBlank` comes next. -/
  | vblank
  /-- `FrameBoundary` comes next. -/
  | over
  deriving DecidableEq, Repr

/-- Where the scanline timer stands. -/
structure Timer where
  /-- Which event comes next. -/
  phase : FramePhase
  /-- The `master_cycle` of the last `SetDue`, which comes "after any bus operation issued at that same `master_cycle`
  value" (R185, D14). -/
  setDueAt : Option Cycle
  deriving DecidableEq, Repr

/-- The state of the block, of the collaborators it reaches, and of its ports. -/
structure State where
  /-- `ext`, the external open-bus latch (R10). -/
  ext : Byte
  /-- `int`, the internal latch (R11). -/
  int : Byte
  /-- `ram`, 2048 bytes, as the list of the offsets whose byte is not the power-on byte (R14). -/
  ram : List Host.Cell
  /-- `tram_present` and `tram`: none if there is no test RAM, else its 32768 bytes as the list of the offsets whose
  byte is not zero (R18). -/
  tram : Option (List Host.Cell)
  /-- `cart_present` and `CART`: none if no cartridge is attached (R17, R26). -/
  cart : Option CartState
  /-- `PPU` (R22). -/
  ppu : Ppu
  /-- `APU` (R23). -/
  apu : ApuState
  /-- `DMA` (R24). -/
  dma : DmaState
  /-- `CTRL` (R25). -/
  ctrl : CtrlState
  /-- `master_cycle` as the clock collaborator last gave it (R28). -/
  masterCycle : Cycle
  /-- The PPU's scanline timer (`43_ppu_registers.md` R185). The model's own field: the spec states what the timer must
  keep to and gives it no state (log entry 10). -/
  timer : Timer
  /-- `DW_READ_MODE` (R4, `42_vector_dummy.md` R156). -/
  dwReadMode : DwReadMode
  /-- `obs_present` and the observer's event history: none if no observer is attached (R19,
  `60_exceptions.md` R210). -/
  observer : Option (List ObserverCall)
  /-- The response port (`30_encoding.md` R82). The model's own field: the spec's operations return a value. -/
  resp : Response
  /-- The inputs not yet taken, the next one first. The model's own field: the spec's operations are calls. -/
  inbox : List Input
  /-- What the environment still does between the accesses of the operation being run. The model's own field. -/
  mid : List Event
  deriving DecidableEq, Repr

/-- Why the block stops with a fault. It has no constructor: "No operation of the block raises a synchronous
exception, returns an error, faults, traps or hangs" (`60_exceptions.md` R200). -/
inductive Fault where
  deriving DecidableEq, Repr

/-- Why a step is refused. Each refusal is of an input the spec admits no step for; none is of an operation. -/
inductive Refusal where
  /-- Raised by `exec` for an instruction that has no meaning yet: no arm uses it. Safe. -/
  | notModelled (mnemonic : String)
  /-- Raised by `execReservedOp7`: op code 7 spells no operation (`30_encoding.md` R83, D24). Safe. -/
  | reservedOp
  /-- Raised by `fetch`: the decoder turned the port word away. Safe: the table has no such word. -/
  | badWord (e : DecodeError)
  /-- Raised by `deliver`: `master_cycle` would decrease (R28, `93_implementation_defined.md` U16). Safe. -/
  | clockWentBack
  /-- Raised by `fetch`: a request that must come before the `SetDue` of its `master_cycle` comes after it
  (`43_ppu_registers.md` R183, R185, `60_exceptions.md` R204 item 4, D14). Unsafe if the driving loop ever does it. -/
  | requestAfterSet
  /-- Raised by `deliver`: `master_cycle` would pass the cycle of a scheduled set before `SetDue`
  (`43_ppu_registers.md` R185, `70_reset_and_hazards.md` R231). Unsafe if the PPU timer ever does it. -/
  | clockPassedDue
  /-- Raised by `deliver`: `Schedule` when the frame's order has another event next, or in a state other than `Clear`
  (R182, R185, U14). Unsafe if the PPU timer ever does it. -/
  | scheduleOutOfTurn
  /-- Raised by `deliver`: `Schedule(c)` with `c < master_cycle` (R185). Unsafe if the PPU timer ever does it. -/
  | scheduleInPast
  /-- Raised by `deliver`: `SetDue` when the frame's order has another event next, in `Active`, or at another cycle than
  the scheduled one (R182, R185, U14). Unsafe if the PPU timer ever does it. -/
  | setDueOutOfTurn
  /-- Raised by `deliver`: `EndOfVBlank` when the frame's order has another event next, or in `SetPending` (R182, R185,
  U14). Unsafe if the PPU timer ever does it. -/
  | endOfVBlankOutOfTurn
  /-- Raised by `deliver`: `FrameBoundary` when the frame's order has another event next, or in `SetPending` or `Active`
  (R182, R185, U14). Unsafe if the PPU timer ever does it. -/
  | frameBoundaryOutOfTurn
  /-- Raised by `deliver`: a cartridge moves while none is attached (R26). Safe: there is nothing to move. -/
  | noCartridge
  /-- Raised by `attachCartridge`: a cartridge is attached already; no swap exists (D18, U19). Unsafe if a host
  ever swaps cartridges. -/
  | cartridgeAttached
  /-- Raised by `construct`: the test-RAM slice is not 32768 bytes long (`70_reset_and_hazards.md` R221). Safe. -/
  | testRamLength
  deriving DecidableEq, Repr

/-- The PPU's fields at reset. `last_read_cycle`, `prevent_set_cycle` and `vbl_state` as R34 says; the flags, the
enable bit, `warmup_complete`, `mirroring` and the rest are construction arguments the spec gives no value for:
DESIGN CHOICE (log entry 5). -/
def resetPpu : Ppu where
  vblankFlag := false
  sprite0Hit := false
  spriteOverflow := false
  nmiEnable := false
  warmupComplete := false
  lastReadCycle := 0
  preventSetCycle := none
  vblState := .clear
  mirroring := ⟨0⟩
  rest := ⟨0⟩

/-- The timer at reset: at the start of a frame, no set delivered yet. DESIGN CHOICE (log entry 10). -/
def resetTimer : Timer where
  phase := .start
  setDueAt := none

/-- The block right after construction (R34) with no cartridge, no test RAM, no observer and the decided
`DW_READ_MODE` (the conventions of `95_test_vectors.md`). The construction arguments are DESIGN CHOICE (log entries
4 to 6 and 10); `construct` gives the state for any others. -/
def State.reset : State where
  ext := 0
  int := 0
  ram := []
  tram := none
  cart := none
  ppu := resetPpu
  apu := ⟨0⟩
  dma := ⟨0⟩
  ctrl := ⟨0⟩
  masterCycle := 0
  timer := resetTimer
  dwReadMode := .peek
  observer := none
  resp := .nothing
  inbox := []
  mid := []

end Sys2Proof.Machine
end

