-- ==== Sys2Proof/Machine/Ops.lean ====
section
/-! DEFINITION. The named operations over memory, the latch, the observer and the other fields of the state. The
block takes no exception and returns from none (`60_exceptions.md` R200, R205, R206), so there is no operation for
either; its one interrupt signal is the NMI line of Flags.lean. -/

namespace Sys2Proof.Machine

/-! ### Memory

A memory is the list of its cells that differ from what an unlisted address reads as, by rising address. -/

/-- The two memories inside the block. -/
inductive Bank where
  | ram | tram
  deriving DecidableEq, Repr

/-- The size of a memory in bytes (`10_state.md` R14, R18). -/
def Bank.size : Bank → Nat
  | .ram => 2048
  | .tram => 32768

/-- What an unlisted address reads as: in RAM the power-on byte (R16); in test RAM zero, which assumes nothing, since
construction lists every byte of the host's slice that is not zero (R18). -/
def Bank.unlisted : Bank → Nat → Byte
  | .ram, k => Config.ramInit (BitVec.ofNat 11 k)
  | .tram, _ => 0

/-- The canonical form: addresses strictly rising and below the size, no cell equal to what an unlisted address
reads as. -/
abbrev Memory.wf (b : Bank) (m : List Host.Cell) : Prop :=
  m.Pairwise (fun x y => x.1 < y.1) ∧ ∀ c ∈ m, c.1 < b.size ∧ c.2 ≠ b.unlisted c.1

/-- The byte at an address. -/
def Memory.read (b : Bank) : List Host.Cell → Nat → Byte
  | [], k => b.unlisted k
  | c :: m, k => if c.1 = k then c.2 else Memory.read b m k

/-- The memory without the address. -/
def Memory.erase (m : List Host.Cell) (k : Nat) : List Host.Cell := m.filter (fun c => c.1 != k)

/-- The memory with a cell put before the first one of a higher address. -/
def Memory.insert : List Host.Cell → Nat → Byte → List Host.Cell
  | [], k, v => [(k, v)]
  | c :: m, k, v => if k < c.1 then (k, v) :: c :: m else c :: Memory.insert m k v

/-- The memory with the byte at an address replaced; the canonical form is kept. -/
def Memory.write (b : Bank) (m : List Host.Cell) (k : Nat) (v : Byte) : List Host.Cell :=
  if v = b.unlisted k then Memory.erase m k else Memory.insert (Memory.erase m k) k v

/-- The canonical memory that holds a list of bytes from an address on. -/
def Memory.ofBytes (b : Bank) : List Byte → Nat → List Host.Cell
  | [], _ => []
  | v :: vs, k => if v = b.unlisted k then Memory.ofBytes b vs (k + 1) else (k, v) :: Memory.ofBytes b vs (k + 1)

/-! ### One update per field -/

def State.setExt (s : State) (x : Byte) : State := { s with ext := x }
def State.setInt (s : State) (x : Byte) : State := { s with int := x }
def State.setRam (s : State) (x : List Host.Cell) : State := { s with ram := x }
def State.setTram (s : State) (x : Option (List Host.Cell)) : State := { s with tram := x }
def State.setCart (s : State) (x : Option CartState) : State := { s with cart := x }
def State.setPpu (s : State) (x : Ppu) : State := { s with ppu := x }
def State.setApu (s : State) (x : ApuState) : State := { s with apu := x }
def State.setDma (s : State) (x : DmaState) : State := { s with dma := x }
def State.setCtrl (s : State) (x : CtrlState) : State := { s with ctrl := x }
def State.setMasterCycle (s : State) (x : Cycle) : State := { s with masterCycle := x }
def State.setTimer (s : State) (x : Timer) : State := { s with timer := x }
def State.setDwReadMode (s : State) (x : DwReadMode) : State := { s with dwReadMode := x }
def State.setObserver (s : State) (x : Option (List ObserverCall)) : State := { s with observer := x }
def State.setResp (s : State) (x : Response) : State := { s with resp := x }
def State.setInbox (s : State) (x : List Input) : State := { s with inbox := x }
def State.setMid (s : State) (x : List Event) : State := { s with mid := x }

/-! ### The latch and the observer -/

/-- `IntMasked() = int & INTERNAL_MASK`, the only way `int` is read (`10_state.md` R12). -/
def State.intMasked (s : State) : Byte := s.int &&& Config.internalMask

/-- The latch update of a READ in a range: `int` for `0x4015`, which is the range APU_STATUS, `ext` for every other
address (`40_dispatch.md` R100 and its corner case 1, R103). -/
def State.latchRead (s : State) (r : Range) (x : Byte) : State :=
  if r = .apuStatus then s.setInt x else s.setExt x

/-- `Observe(a, x, w)`: the call joins the observer's history, if one is attached (`60_exceptions.md` R210). -/
def State.observe (s : State) (a : Addr) (x : Byte) (w : Bool) : State :=
  s.setObserver (s.observer.map (fun calls => calls ++ [⟨a, x, w⟩]))

end Sys2Proof.Machine
end

