-- ==== Sys2Proof/Machine/Operands.lean ====
section
/-! DEFINITION. The operand forms: the local address of each handler (`30_encoding.md` R76), the second address of a
16-bit read (R77), and what serves the CARTRIDGE range (`20_memory.md` R45). -/

namespace Sys2Proof.Machine

/-- RAM offset `a & 0x07FF` (R43, R76). -/
def ramOffset (a : Addr) : Nat := (a &&& 0x07FF).toNat

/-- PPU register number `a & 0x07` (R44, `43_ppu_registers.md` R170). -/
def ppuReg (a : Addr) : BitVec 3 := (a &&& 0x0007).setWidth 3

/-- Test-RAM offset `a & 0x7FFF`, used for `a >= 0x8000` (R76). -/
def tramOffset (a : Addr) : Nat := (a &&& 0x7FFF).toNat

/-- The second address of READ16: `a +% 1` (R77). -/
def hiAddr (a : Addr) : Addr := a + 1

/-- The second address of READ16BUG: no carry into the page number (R77, `42_vector_dummy.md` R151). -/
def hiAddrBug (a : Addr) : Addr := if a &&& 0x00FF = 0x00FF then a &&& 0xFF00 else a + 1

/-- `{hi, lo}` (R77, `20_memory.md` R47). -/
def combine (hi lo : Byte) : BitVec 16 := (hi.setWidth 16 <<< 8) ||| lo.setWidth 16

/-- What serves an address of the CARTRIDGE range. -/
inductive Server where
  | cartridge (c : CartState)
  | testRam (m : List Host.Cell)
  | nothing
  deriving DecidableEq, Repr

/-- R45: the cartridge if one is attached; else the test RAM, from `0x8000` up; else nothing. -/
def State.server (s : State) (a : Addr) : Server :=
  match s.cart with
  | some c => .cartridge c
  | none =>
    match s.tram with
    | some m => if 0x8000 ≤ a.toNat then .testRam m else .nothing
    | none => .nothing

/-- An address nothing serves: the OPEN_BUS range, and a CARTRIDGE address under case (3) of R45
(`20_memory.md` R54). -/
def State.unmapped (s : State) (a : Addr) : Bool :=
  match rangeOf a with
  | .openBus => true
  | .cartridge => decide (s.server a = .nothing)
  | .ram | .ppu | .apu | .oamDma | .apuStatus | .controller => false

end Sys2Proof.Machine
end

