-- ==== Sys2Proof/Machine/Flags.lean ====
section
/-! DEFINITION. The flag computations: the PPU status byte, what a status read and a control write do to the flags,
and the NMI line (`43_ppu_registers.md` R171, R172, R174, R180). -/

namespace Sys2Proof.Machine

/-- A flag in bit `n` of a byte. -/
def flagBit (n : Nat) (f : Bool) : Byte := (if f then 1 else 0) <<< n

/-- `StatusByte()` (R171): the three flags, and the low five bits of the open-bus latch. -/
def statusByte (p : Ppu) (ext : Byte) : Byte :=
  flagBit 7 p.vblankFlag ||| flagBit 6 p.sprite0Hit ||| flagBit 5 p.spriteOverflow ||| (ext &&& 0x1F)

/-- `NmiLine() = vblank_flag AND ctrl.nmi_enable` (R180), never stored. -/
def nmiLine (p : Ppu) : Bool := p.vblankFlag && p.nmiEnable

/-- The VBlank machine under a status read at `master_cycle = now`: in the race window the pending set is cancelled
and the marker recorded, an active flag is cleared (R172, R182, R183). -/
def afterStatusRead (now : Cycle) (p : Ppu) : Ppu :=
  match p.vblState with
  | .setPending c =>
    if now = c then { p with preventSetCycle := some c, vblState := .suppressedThisFrame } else p
  | .active => { p with vblState := .clear }
  | .clear => p
  | .suppressedThisFrame => p

/-- The PPU after a status read: the flag is cleared, whatever it was, and the cycle recorded (R172). -/
def statusRead (now : Cycle) (p : Ppu) : Ppu :=
  { afterStatusRead now p with vblankFlag := false, lastReadCycle := now }

/-- The PPU after a control write: ignored before the warm-up is complete, else `ctrl.nmi_enable` takes its bit of
the byte, and then the PPU's own function takes the byte for the flags it owns (R174). -/
def controlWrite (v : Byte) (p : Ppu) : Ppu :=
  if p.warmupComplete then
    let q := { p with nmiEnable := v.getLsbD Config.nmiEnableBit.val }
    { q with rest := Config.ppuRegWrite q 0 v }
  else p

end Sys2Proof.Machine
end

