-- ==== Sys2Proof/Machine/Events.lean ====
section
/-! DEFINITION. What the outside world does to the block beside its operations: the environment's events
(`43_ppu_registers.md` R182, R185; `10_state.md` R28) and the host action AttachCartridge
(`70_reset_and_hazards.md` R222). An event the spec gives the environment no step for is refused by name. -/

namespace Sys2Proof.Machine

/-- The cycle at which `SetDue` is still to be delivered: that of the pending set, or of this frame's cancelled one
(R182, R184, R185). -/
def State.dueCycle (s : State) : Option Cycle :=
  match s.ppu.vblState with
  | .setPending c => some c
  | .suppressedThisFrame => if s.timer.phase = .scheduled then s.ppu.preventSetCycle else none
  | .clear => none
  | .active => none

/-- The clock collaborator gives a new `master_cycle`: it never decreases (R28, R231), and it does not pass the cycle
at which `SetDue` is still to be delivered (R185). -/
def clockTo (n : Cycle) (s : State) : Except Refusal State :=
  if n.toNat < s.masterCycle.toNat then .error .clockWentBack
  else match s.dueCycle with
    | some c => if c.toNat < n.toNat then .error .clockPassedDue else .ok (s.setMasterCycle n)
    | none => .ok (s.setMasterCycle n)

/-- The timer's next event is another one. -/
def State.goTo (s : State) (next : FramePhase) : State := s.setTimer { s.timer with phase := next }

/-- `Schedule(c)`, the first event of a frame: `Clear` to `SetPending(c)`, with `c >= master_cycle` (R182, R185). -/
def scheduleSet (c : Cycle) (s : State) : Except Refusal State :=
  if s.timer.phase ≠ .start then .error .scheduleOutOfTurn
  else match s.ppu.vblState with
    | .clear =>
      if c.toNat < s.masterCycle.toNat then .error .scheduleInPast
      else .ok ((s.setPpu { s.ppu with vblState := .setPending c }).goTo .scheduled)
    | .setPending _ => .error .scheduleOutOfTurn
    | .active => .error .scheduleOutOfTurn
    | .suppressedThisFrame => .error .scheduleOutOfTurn

/-- The timer has delivered `SetDue` now. -/
def State.setDelivered (s : State) : State := s.setTimer ⟨.vblank, some s.masterCycle⟩

/-- `SetDue`, the second event of a frame, at its scheduled cycle: `SetPending` to `Active`, the flag set; nothing in
`SuppressedThisFrame`, where the set is "skipped entirely", and nothing in `Clear` (R182, R183, R185). -/
def setDue (s : State) : Except Refusal State :=
  if s.timer.phase ≠ .scheduled then .error .setDueOutOfTurn
  else match s.ppu.vblState with
    | .setPending c =>
      if s.masterCycle = c then .ok (s.setPpu { s.ppu with vblState := .active, vblankFlag := true }).setDelivered
      else .error .setDueOutOfTurn
    | .suppressedThisFrame =>
      if s.ppu.preventSetCycle = some s.masterCycle then .ok s.setDelivered else .error .setDueOutOfTurn
    | .clear => .ok s.setDelivered
    | .active => .error .setDueOutOfTurn

/-- `EndOfVBlank`, the third event of a frame: `Active` to `Clear`, the flag cleared; nothing in `Clear` and
`SuppressedThisFrame` (R182, R185). -/
def endOfVBlank (s : State) : Except Refusal State :=
  if s.timer.phase ≠ .vblank then .error .endOfVBlankOutOfTurn
  else match s.ppu.vblState with
    | .active => .ok ((s.setPpu { s.ppu with vblState := .clear, vblankFlag := false }).goTo .over)
    | .clear => .ok (s.goTo .over)
    | .suppressedThisFrame => .ok (s.goTo .over)
    | .setPending _ => .error .endOfVBlankOutOfTurn

/-- `FrameBoundary`, the last event of a frame: `SuppressedThisFrame` to `Clear`, the marker cleared; nothing in
`Clear` (R182, R184, R185). -/
def frameBoundary (s : State) : Except Refusal State :=
  if s.timer.phase ≠ .over then .error .frameBoundaryOutOfTurn
  else match s.ppu.vblState with
    | .suppressedThisFrame =>
      .ok ((s.setPpu { s.ppu with vblState := .clear, preventSetCycle := none }).goTo .start)
    | .clear => .ok (s.goTo .start)
    | .setPending _ => .error .frameBoundaryOutOfTurn
    | .active => .error .frameBoundaryOutOfTurn

/-- The attached cartridge's own logic moves it. -/
def cartMoves (p : CartState) (s : State) : Except Refusal State :=
  match s.cart with
  | some _ => .ok (s.setCart (some p))
  | none => .error .noCartridge

/-- One move of the environment. -/
def deliver (e : Event) (s : State) : Except Refusal State :=
  match e with
  | .clock n => clockTo n s
  | .schedule c => scheduleSet c s
  | .setDue => setDue s
  | .endOfVBlank => endOfVBlank s
  | .frameBoundary => frameBoundary s
  | .warmupDone => .ok (s.setPpu { s.ppu with warmupComplete := true })
  | .spriteFlags hit overflow => .ok (s.setPpu { s.ppu with sprite0Hit := hit, spriteOverflow := overflow })
  | .ppuMoves p => .ok (s.setPpu { s.ppu with rest := p })
  | .apuMoves p => .ok (s.setApu p)
  | .dmaMoves p => .ok (s.setDma p)
  | .ctrlMoves p => .ok (s.setCtrl p)
  | .cartMoves p => cartMoves p s

/-- An access may be issued now: `SetDue` "is delivered ... after any bus operation issued at that same
`master_cycle` value" (R185, D14), so a read at the cycle of the set comes first (R183, `60_exceptions.md` R204
item 4). `late` says that the access may come after it all the same. -/
def State.admits (late : Bool) (s : State) : Bool := late || decide (s.timer.setDueAt ≠ some s.masterCycle)

/-- The environment's moves between two accesses, in order: as many as it has a step for and as let the second access
be issued after them; what is left waits in `mid` and is taken after the operation (`20_memory.md` R50, D20). -/
def deliverAll (late : Bool) : List Event → State → State
  | [], s => s.setMid []
  | e :: es, s =>
    match deliver e s with
    | .ok s' =>
      let t := deliverAll late es s'
      if t.admits late then t else s.setMid (e :: es)
    | .error _ => s.setMid (e :: es)

/-- What the environment does between the two accesses of the operation being run. -/
def between (late : Bool) (s : State) : State := deliverAll late s.mid s

/-- The host action AttachCartridge: it changes nothing but the cartridge and queries nothing (R222). -/
def attachCartridge (c : CartState) (s : State) : Except Refusal State :=
  match s.cart with
  | none => .ok (s.setCart (some c))
  | some _ => .error .cartridgeAttached

end Sys2Proof.Machine
end

