-- ==== Sys2Proof/Machine/Handlers.lean ====
section
/-! DEFINITION. The seven handlers of the handler table and their three capabilities (`41_handlers.md`): a read
answers a byte and may change the handler's own target, a write may change the target, a peek changes nothing. None
of them writes `ext` or `int` (`10_state.md` R21, `41_handlers.md` R136). -/

namespace Sys2Proof.Machine

/-! ### RAM (R120 to R122) -/

def ramRead (a : Addr) (s : State) : Byte := Memory.read .ram s.ram (ramOffset a)

def ramWrite (a : Addr) (v : Byte) (s : State) : State := s.setRam (Memory.write .ram s.ram (ramOffset a) v)

/-! ### PPU registers (`43_ppu_registers.md` R172 to R176) -/

/-- Register 2 answers the status byte as it is before the read, then clears the flag (R172); every other register is
the PPU's own (R173). -/
def ppuRead (reg : BitVec 3) (s : State) : Byte × State :=
  if reg = 2 then (statusByte s.ppu s.ext, s.setPpu (statusRead s.masterCycle s.ppu))
  else
    let p := Config.ppuRegRead s.ppu reg s.ext
    (p.1, s.setPpu { s.ppu with rest := p.2 })

/-- Register 0 is the control register (R174), every other the PPU's own (R175). -/
def ppuWrite (reg : BitVec 3) (v : Byte) (s : State) : State :=
  if reg = 0 then s.setPpu (controlWrite v s.ppu)
  else s.setPpu { s.ppu with rest := Config.ppuRegWrite s.ppu reg v }

/-- R176: the status byte for register 2, the open-bus latch for every other. -/
def ppuPeek (reg : BitVec 3) (s : State) : Byte := if reg = 2 then statusByte s.ppu s.ext else s.ext

/-! ### APU (R124 to R127) -/

def apuRead (a : Addr) (s : State) : Byte × State :=
  let p := Config.apuRead s.apu a s.ext s.intMasked
  (p.1, s.setApu p.2)

def apuWrite (a : Addr) (v : Byte) (s : State) : State := s.setApu (Config.apuWrite s.apu a v)

def apuPeek (a : Addr) (s : State) : Byte := Config.apuPeek s.apu a s.ext s.intMasked

/-! ### OAM-DMA (R128) -/

def dmaRead (a : Addr) (s : State) : Byte × State :=
  let p := Config.dmaRead s.dma a s.ext
  (p.1, s.setDma p.2)

def dmaWrite (a : Addr) (v : Byte) (s : State) : State := s.setDma (Config.dmaWrite s.dma a v)

def dmaPeek (a : Addr) (s : State) : Byte := Config.dmaPeek s.dma a s.ext

/-! ### Controllers (R129) -/

def ctrlRead (a : Addr) (s : State) : Byte × State :=
  let p := Config.ctrlRead s.ctrl a s.ext
  (p.1, s.setCtrl p.2)

def ctrlWrite (a : Addr) (v : Byte) (s : State) : State := s.setCtrl (Config.ctrlWrite s.ctrl a v)

def ctrlPeek (a : Addr) (s : State) : Byte := Config.ctrlPeek s.ctrl a s.ext

/-! ### CARTRIDGE range (R130 to R132) -/

def cartRead (a : Addr) (s : State) : Byte × State :=
  match s.server a with
  | .cartridge c =>
    let p := Config.cartRead c a
    (p.1, s.setCart (some p.2))
  | .testRam m => (Memory.read .tram m (tramOffset a), s)
  | .nothing => (s.ext, s)

/-- A write to an attached cartridge is followed by the mirroring query on the updated cartridge (R131,
`70_reset_and_hazards.md` R237). -/
def cartWrite (a : Addr) (v : Byte) (s : State) : State :=
  match s.server a with
  | .cartridge c =>
    let c' := Config.cartWrite c a v
    (s.setCart (some c')).setPpu { s.ppu with mirroring := Config.cartMirroring c' }
  | .testRam m => s.setTram (some (Memory.write .tram m (tramOffset a) v))
  | .nothing => s

def cartPeek (a : Addr) (s : State) : Byte :=
  match s.server a with
  | .cartridge c => Config.cartPeek c a
  | .testRam m => Memory.read .tram m (tramOffset a)
  | .nothing => s.ext

/-! ### The handler table (R20, R72, R104)

The fallback handler answers the latch and stores nothing (R133 to R135). -/

/-- `HRead`. -/
def hRead (h : Handler) (a : Addr) (s : State) : Byte × State :=
  match h with
  | .ram => (ramRead a s, s)
  | .ppu => ppuRead (ppuReg a) s
  | .apu => apuRead a s
  | .oamDma => dmaRead a s
  | .controller => ctrlRead a s
  | .cartridge => cartRead a s
  | .openBus => (s.ext, s)

/-- `HWrite`. -/
def hWrite (h : Handler) (a : Addr) (v : Byte) (s : State) : State :=
  match h with
  | .ram => ramWrite a v s
  | .ppu => ppuWrite (ppuReg a) v s
  | .apu => apuWrite a v s
  | .oamDma => dmaWrite a v s
  | .controller => ctrlWrite a v s
  | .cartridge => cartWrite a v s
  | .openBus => s

/-- `HPeek`. -/
def hPeek (h : Handler) (a : Addr) (s : State) : Byte :=
  match h with
  | .ram => ramRead a s
  | .ppu => ppuPeek (ppuReg a) s
  | .apu => apuPeek a s
  | .oamDma => dmaPeek a s
  | .controller => ctrlPeek a s
  | .cartridge => cartPeek a s
  | .openBus => s.ext

end Sys2Proof.Machine
end

