-- ==== Sys2Proof/Machine/Bus.lean ====
section
/-! DEFINITION. The dispatcher (`40_dispatch.md` R100 to R104) and the composite accesses built on it
(`42_vector_dummy.md` R150 to R156). -/

namespace Sys2Proof.Machine

/-! ### The dispatcher, once the range is known -/

/-- What follows a handler's read: the latch update, then the observer (R100, `60_exceptions.md` R204). -/
def record (r : Range) (a : Addr) (p : Byte × State) : Byte × State :=
  (p.1, (p.2.latchRead r p.1).observe a p.1 false)

/-- What a WRITE does around a handler's write: `ext` first and unconditionally, then the handler, then the observer
(R101, R204). -/
def store (a : Addr) (v : Byte) (h : State → State) (s : State) : State := (h (s.setExt v)).observe a v true

/-- READ, WRITE or PEEK at an address, dispatched by a range: one capability of one handler, once (R104), its byte on
the response port. -/
def operate (r : Range) (a : Addr) (c : Capability) (s : State) : State :=
  match c with
  | .read =>
    let p := record r a (hRead r.handler a s)
    p.2.setResp (.byte p.1)
  | .write v => (store a v (hWrite r.handler a v) s).setResp .nothing
  | .peek => s.setResp (.byte (hPeek r.handler a s))

/-- READ, WRITE or PEEK at an image of a PPU register (`43_ppu_registers.md` R170). -/
def operatePpuReg (reg : BitVec 3) (a : Addr) (c : Capability) (s : State) : State :=
  match c with
  | .read =>
    let p := record .ppu a (ppuRead reg s)
    p.2.setResp (.byte p.1)
  | .write v => (store a v (ppuWrite reg v) s).setResp .nothing
  | .peek => s.setResp (.byte (ppuPeek reg s))

/-! ### The accesses -/

/-- `BusRead(a)` (R100). -/
def busRead (a : Addr) (s : State) : Byte × State := record (rangeOf a) a (hRead (rangeOf a).handler a s)

/-- `BusWrite(a, v)` (R101). -/
def busWrite (a : Addr) (v : Byte) (s : State) : State := store a v (hWrite (rangeOf a).handler a v) s

/-- The access is a write to PPU register 0. A control write and a VBlank transition at one `master_cycle` come in
either order (`60_exceptions.md` R204 item 5, U15). -/
def controlAddr (r : Range) (a : Addr) : Bool := decide (r = .ppu ∧ ppuReg a = 0)

/-- Two READs, the low byte at `lo` first, then the high byte at `hi`, with the environment's moves between them
(R150, R151, D9, D20). -/
def busReadPair (lo hi : Addr) (s : State) : BitVec 16 × State :=
  let l := busRead lo s
  let h := busRead hi (between false l.2)
  (combine h.1 l.1, h.2)

/-- `FetchNoLatch(a)`, the read half of DUMMYWRITE: it writes neither latch and calls no observer (R156). -/
def fetchNoLatch (a : Addr) (s : State) : Byte × State :=
  match s.dwReadMode with
  | .peek => (hPeek (rangeOf a).handler a s, s)
  | .readNoLatch => hRead (rangeOf a).handler a s

/-- `BusDummyWrite(a)`: the fetched byte is written back, with the environment's moves between (R153, D20). -/
def busDummyWrite (a : Addr) (s : State) : State :=
  let x := fetchNoLatch a s
  busWrite a x.1 (between (controlAddr (rangeOf a) a) x.2)

end Sys2Proof.Machine
end

