-- ==== Sys2Proof/Machine/AddrRows.lean ====
section
/-! DEFINITION. The meanings of the `ADDR` rows: READ, WRITE or PEEK at the address, dispatched by the row's range
(`30_encoding.md` R72, R74; `40_dispatch.md` R104; `41_handlers.md`). Log entry 1 says how such a row comes to be an
instruction. -/

namespace Sys2Proof.Machine

/-- RAM (R120 to R122). -/
def execRam (a : Addr) (c : Capability) (s : State) : Host.Outcome State Fault Refusal :=
  .next (operate .ram a c s)

/-- PPU (R123). -/
def execPpu (a : Addr) (c : Capability) (s : State) : Host.Outcome State Fault Refusal :=
  .next (operate .ppu a c s)

/-- APU_4000 (R124, R125, R127). -/
def execApu4000 (a : Addr) (c : Capability) (s : State) : Host.Outcome State Fault Refusal :=
  .next (operate .apu a c s)

/-- APU_4010 (R124, R125, R127). -/
def execApu4010 (a : Addr) (c : Capability) (s : State) : Host.Outcome State Fault Refusal :=
  .next (operate .apu a c s)

/-- OAM_DMA (R128). -/
def execOamDma (a : Addr) (c : Capability) (s : State) : Host.Outcome State Fault Refusal :=
  .next (operate .oamDma a c s)

/-- APU_STATUS (R125 to R127). -/
def execApuStatus (a : Addr) (c : Capability) (s : State) : Host.Outcome State Fault Refusal :=
  .next (operate .apuStatus a c s)

/-- CONTROLLER (R129). -/
def execController (a : Addr) (c : Capability) (s : State) : Host.Outcome State Fault Refusal :=
  .next (operate .controller a c s)

/-- OPEN_BUS (R133 to R135). -/
def execOpenBus (a : Addr) (c : Capability) (s : State) : Host.Outcome State Fault Refusal :=
  .next (operate .openBus a c s)

/-- CARTRIDGE_4020 (R130 to R132). -/
def execCartridge4020 (a : Addr) (c : Capability) (s : State) : Host.Outcome State Fault Refusal :=
  .next (operate .cartridge a c s)

/-- CARTRIDGE_4040 (R130 to R132). -/
def execCartridge4040 (a : Addr) (c : Capability) (s : State) : Host.Outcome State Fault Refusal :=
  .next (operate .cartridge a c s)

/-- CARTRIDGE_4080 (R130 to R132). -/
def execCartridge4080 (a : Addr) (c : Capability) (s : State) : Host.Outcome State Fault Refusal :=
  .next (operate .cartridge a c s)

/-- CARTRIDGE_4100 (R130 to R132). -/
def execCartridge4100 (a : Addr) (c : Capability) (s : State) : Host.Outcome State Fault Refusal :=
  .next (operate .cartridge a c s)

/-- CARTRIDGE_4200 (R130 to R132). -/
def execCartridge4200 (a : Addr) (c : Capability) (s : State) : Host.Outcome State Fault Refusal :=
  .next (operate .cartridge a c s)

/-- CARTRIDGE_4400 (R130 to R132). -/
def execCartridge4400 (a : Addr) (c : Capability) (s : State) : Host.Outcome State Fault Refusal :=
  .next (operate .cartridge a c s)

/-- CARTRIDGE_4800 (R130 to R132). -/
def execCartridge4800 (a : Addr) (c : Capability) (s : State) : Host.Outcome State Fault Refusal :=
  .next (operate .cartridge a c s)

/-- CARTRIDGE_5000 (R130 to R132). -/
def execCartridge5000 (a : Addr) (c : Capability) (s : State) : Host.Outcome State Fault Refusal :=
  .next (operate .cartridge a c s)

/-- CARTRIDGE_6000 (R130 to R132). -/
def execCartridge6000 (a : Addr) (c : Capability) (s : State) : Host.Outcome State Fault Refusal :=
  .next (operate .cartridge a c s)

/-- CARTRIDGE_8000 (R130 to R132). -/
def execCartridge8000 (a : Addr) (c : Capability) (s : State) : Host.Outcome State Fault Refusal :=
  .next (operate .cartridge a c s)

end Sys2Proof.Machine
end

