-- ==== Sys2Proof/Machine/PpuRegRows.lean ====
section
/-! DEFINITION. The meanings of the `PPUREG` rows: READ, WRITE or PEEK at an image of the row's register
(`30_encoding.md` R78, `43_ppu_registers.md` R170 to R176). The handler ignores which image is meant
(`20_memory.md` R44); the observer is told (`60_exceptions.md` R210). -/

namespace Sys2Proof.Machine

/-- PPUREG0 (R173, R174, R176). -/
def execPpureg0 (a : Addr) (c : Capability) (s : State) : Host.Outcome State Fault Refusal :=
  .next (operatePpuReg 0 a c s)

/-- PPUREG1 (R173, R175, R176). -/
def execPpureg1 (a : Addr) (c : Capability) (s : State) : Host.Outcome State Fault Refusal :=
  .next (operatePpuReg 1 a c s)

/-- PPUREG2 (R172, R175, R176). -/
def execPpureg2 (a : Addr) (c : Capability) (s : State) : Host.Outcome State Fault Refusal :=
  .next (operatePpuReg 2 a c s)

/-- PPUREG3 (R173, R175, R176). -/
def execPpureg3 (a : Addr) (c : Capability) (s : State) : Host.Outcome State Fault Refusal :=
  .next (operatePpuReg 3 a c s)

/-- PPUREG4 (R173, R175, R176). -/
def execPpureg4 (a : Addr) (c : Capability) (s : State) : Host.Outcome State Fault Refusal :=
  .next (operatePpuReg 4 a c s)

/-- PPUREG5 (R173, R175, R176). -/
def execPpureg5 (a : Addr) (c : Capability) (s : State) : Host.Outcome State Fault Refusal :=
  .next (operatePpuReg 5 a c s)

/-- PPUREG6 (R173, R175, R176). -/
def execPpureg6 (a : Addr) (c : Capability) (s : State) : Host.Outcome State Fault Refusal :=
  .next (operatePpuReg 6 a c s)

/-- PPUREG7 (R173, R175, R176). -/
def execPpureg7 (a : Addr) (c : Capability) (s : State) : Host.Outcome State Fault Refusal :=
  .next (operatePpuReg 7 a c s)

end Sys2Proof.Machine
end

