-- ==== Sys2Proof/Machine/Requests.lean ====
section
/-! DEFINITION. The meanings of the `REQ` rows: the seven operations of the request port (`30_encoding.md` R80) and
the reserved op code (R83). Each of the seven answers a next state in every state (`60_exceptions.md` R200). -/

namespace Sys2Proof.Machine

/-- READ (`40_dispatch.md` R100). -/
def execRead (a : Addr) (s : State) : Host.Outcome State Fault Refusal :=
  .next (operate (rangeOf a) a .read s)

/-- WRITE (R101). -/
def execWrite (a : Addr) (v : Byte) (s : State) : Host.Outcome State Fault Refusal :=
  .next (operate (rangeOf a) a (.write v) s)

/-- PEEK: a function of the state, which it does not change (R102). -/
def execPeek (a : Addr) (s : State) : Host.Outcome State Fault Refusal :=
  .next (operate (rangeOf a) a .peek s)

/-- READ16 (`42_vector_dummy.md` R150). -/
def execRead16 (a : Addr) (s : State) : Host.Outcome State Fault Refusal :=
  let p := busReadPair a (hiAddr a) s
  .next (p.2.setResp (.word p.1))

/-- READ16BUG (R151). -/
def execRead16bug (a : Addr) (s : State) : Host.Outcome State Fault Refusal :=
  let p := busReadPair a (hiAddrBug a) s
  .next (p.2.setResp (.word p.1))

/-- DUMMYREAD: a full READ whose value is dropped (R152). -/
def execDummyread (a : Addr) (s : State) : Host.Outcome State Fault Refusal :=
  .next ((busRead a s).2.setResp .nothing)

/-- DUMMYWRITE (R153). -/
def execDummywrite (a : Addr) (s : State) : Host.Outcome State Fault Refusal :=
  .next ((busDummyWrite a s).setResp .nothing)

/-- Op code 7 spells no operation: refused, no step (R83, D24). -/
def execReservedOp7 (_s : State) : Host.Outcome State Fault Refusal := .refused .reservedOp

end Sys2Proof.Machine
end

