-- ==== Sys2Proof/Machine/Dispatch.lean ====
section
/-! DEFINITION. One arm per constructor of `Instr`, each a direct call of the instruction's meaning. -/

namespace Sys2Proof.Machine

def exec (i : Instr) (s : State) : Host.Outcome State Fault Refusal :=
  match i with
  | .read a => Sys2Proof.Machine.execRead a s
  | .write a v => Sys2Proof.Machine.execWrite a v s
  | .peek a => Sys2Proof.Machine.execPeek a s
  | .read16 a => Sys2Proof.Machine.execRead16 a s
  | .read16bug a => Sys2Proof.Machine.execRead16bug a s
  | .dummyread a => Sys2Proof.Machine.execDummyread a s
  | .dummywrite a => Sys2Proof.Machine.execDummywrite a s
  | .reservedOp7 => Sys2Proof.Machine.execReservedOp7 s
  | .ram a c => Sys2Proof.Machine.execRam a c s
  | .ppu a c => Sys2Proof.Machine.execPpu a c s
  | .apu4000 a c => Sys2Proof.Machine.execApu4000 a c s
  | .apu4010 a c => Sys2Proof.Machine.execApu4010 a c s
  | .oamDma a c => Sys2Proof.Machine.execOamDma a c s
  | .apuStatus a c => Sys2Proof.Machine.execApuStatus a c s
  | .controller a c => Sys2Proof.Machine.execController a c s
  | .openBus a c => Sys2Proof.Machine.execOpenBus a c s
  | .cartridge4020 a c => Sys2Proof.Machine.execCartridge4020 a c s
  | .cartridge4040 a c => Sys2Proof.Machine.execCartridge4040 a c s
  | .cartridge4080 a c => Sys2Proof.Machine.execCartridge4080 a c s
  | .cartridge4100 a c => Sys2Proof.Machine.execCartridge4100 a c s
  | .cartridge4200 a c => Sys2Proof.Machine.execCartridge4200 a c s
  | .cartridge4400 a c => Sys2Proof.Machine.execCartridge4400 a c s
  | .cartridge4800 a c => Sys2Proof.Machine.execCartridge4800 a c s
  | .cartridge5000 a c => Sys2Proof.Machine.execCartridge5000 a c s
  | .cartridge6000 a c => Sys2Proof.Machine.execCartridge6000 a c s
  | .cartridge8000 a c => Sys2Proof.Machine.execCartridge8000 a c s
  | .ppureg0 a c => Sys2Proof.Machine.execPpureg0 a c s
  | .ppureg1 a c => Sys2Proof.Machine.execPpureg1 a c s
  | .ppureg2 a c => Sys2Proof.Machine.execPpureg2 a c s
  | .ppureg3 a c => Sys2Proof.Machine.execPpureg3 a c s
  | .ppureg4 a c => Sys2Proof.Machine.execPpureg4 a c s
  | .ppureg5 a c => Sys2Proof.Machine.execPpureg5 a c s
  | .ppureg6 a c => Sys2Proof.Machine.execPpureg6 a c s
  | .ppureg7 a c => Sys2Proof.Machine.execPpureg7 a c s

end Sys2Proof.Machine
end

