-- ==== Sys2Proof/Machine/Fetch.lean ====
section
/-! DEFINITION. How the block takes its next input: a request word is decoded (`30_encoding.md` R80 to R86), an event
or a host action takes effect at once. Every request is one word (R86), and nothing is in progress between two
inputs (`10_state.md` R30). -/

namespace Sys2Proof.Machine

/-- What the next input comes to. -/
inductive Fetched where
  /-- There is none. -/
  | idle
  /-- An operation to run, in the state without the input. -/
  | run (i : Instr) (s : State)
  /-- An event or a host action, and the state it leaves. -/
  | moved (s : State)
  /-- Nothing the spec admits a step for. -/
  | stop (r : Refusal)
  deriving DecidableEq, Repr

/-- The state an event leaves, or its refusal. -/
def Fetched.ofEvent : Except Refusal State → Fetched
  | .ok s => .moved s
  | .error r => .stop r

/-- A capability at an address of a range may be used after the `SetDue` of its `master_cycle`: a PEEK, "safely callable
at any point" (`60_exceptions.md` R211), and a control write (R204 item 5). -/
def accessFollowsSet (r : Range) (a : Addr) : Capability → Bool
  | .read => false
  | .write _ => controlAddr r a
  | .peek => true

/-- The instruction may be issued after the `SetDue` of its `master_cycle`. -/
def followsSet : Instr → Bool
  | .read _ | .read16 _ | .read16bug _ | .dummyread _ => false
  | .write a _ | .dummywrite a => controlAddr (rangeOf a) a
  | .peek _ | .reservedOp7 => true
  | .ram a c => accessFollowsSet .ram a c
  | .ppu a c => accessFollowsSet .ppu a c
  | .apu4000 a c | .apu4010 a c => accessFollowsSet .apu a c
  | .oamDma a c => accessFollowsSet .oamDma a c
  | .apuStatus a c => accessFollowsSet .apuStatus a c
  | .controller a c => accessFollowsSet .controller a c
  | .openBus a c => accessFollowsSet .openBus a c
  | .cartridge4020 a c | .cartridge4040 a c | .cartridge4080 a c | .cartridge4100 a c | .cartridge4200 a c
  | .cartridge4400 a c | .cartridge4800 a c | .cartridge5000 a c | .cartridge6000 a c
  | .cartridge8000 a c => accessFollowsSet .cartridge a c
  | .ppureg0 _ c => accessFollowsSet .ppu 0x2000 c
  | .ppureg1 _ c => accessFollowsSet .ppu 0x2001 c
  | .ppureg2 _ c => accessFollowsSet .ppu 0x2002 c
  | .ppureg3 _ c => accessFollowsSet .ppu 0x2003 c
  | .ppureg4 _ c => accessFollowsSet .ppu 0x2004 c
  | .ppureg5 _ c => accessFollowsSet .ppu 0x2005 c
  | .ppureg6 _ c => accessFollowsSet .ppu 0x2006 c
  | .ppureg7 _ c => accessFollowsSet .ppu 0x2007 c

/-- Takes the head of the inbox. -/
def fetch (s : State) : Fetched :=
  match s.inbox with
  | [] => .idle
  | .word f w es :: rest =>
    match decode f w with
    | .ok i =>
      if s.admits (followsSet i) then .run i ((s.setInbox rest).setMid es) else .stop .requestAfterSet
    | .error e => .stop (.badWord e)
  | .event e :: rest => .ofEvent (deliver e (s.setInbox rest))
  | .attach c :: rest => .ofEvent (attachCartridge c (s.setInbox rest))

/-- After an operation: moves of the environment that found no place inside it are taken next, in their order. -/
def retire (s : State) : State := (s.setInbox (s.mid.map Input.event ++ s.inbox)).setMid []

/-- A request put before every other input. -/
def pushWord (f : Format) (w : PortWord) (s : State) : State := s.setInbox (.word f w [] :: s.inbox)

end Sys2Proof.Machine
end

