-- ==== Sys2Proof/Machine/Step.lean ====
section
/-! DEFINITION. One step: the block takes its next input. With no input it stays as it is: it "never halts, it serves
operations for as long as the driving loop issues them" (`70_reset_and_hazards.md` R226). -/

namespace Sys2Proof.Machine

/-- What an operation's outcome comes to at the end of the step. -/
def settle : Host.Outcome State Fault Refusal → Host.Outcome State Fault Refusal
  | .next s => .next (retire s)
  | .fault r => .fault r
  | .refused r => .refused r

/-- One step of the machine. -/
def step (s : State) : Host.Outcome State Fault Refusal :=
  match fetch s with
  | .idle => .next s
  | .run i s1 => settle (exec i s1)
  | .moved s1 => .next s1
  | .stop r => .refused r

/-- `s` with an opcode-table word as its next input. -/
def State.withFetchWord (s : State) (nbits w : Nat) : State := pushWord (tableFormat nbits w) (BitVec.ofNat 32 w) s

end Sys2Proof.Machine
end

