-- ==== Sys2Proof/Machine/Construct.lean ====
section
/-! DEFINITION. Construction of the block, the host action that is its only reset (`70_reset_and_hazards.md` R220,
R221, R223). -/

namespace Sys2Proof.Machine

/-- The arguments of construction (R220) and the values R34 leaves as arguments. -/
structure BuildArgs where
  /-- The attached cartridge, if any. -/
  cart : Option CartState
  /-- The test-RAM slice, if any (`TRAM_INIT`). -/
  tramSlice : Option (List Byte)
  /-- Whether an observer is attached. -/
  obsPresent : Bool
  vblankFlag : Bool
  sprite0Hit : Bool
  spriteOverflow : Bool
  nmiEnable : Bool
  warmupComplete : Bool
  mirroring : MirroringMode
  ppuRest : PpuRest
  apu : ApuState
  dma : DmaState
  ctrl : CtrlState
  masterCycle : Cycle
  /-- Where the PPU's scanline timer stands, if the flag is not set. -/
  framePhase : FramePhase
  dwReadMode : DwReadMode
  deriving DecidableEq, Repr

/-- The PPU after construction: `vbl_state` follows the flag, no set is pending and none suppressed (R34, D13). -/
def builtPpu (b : BuildArgs) : Ppu where
  vblankFlag := b.vblankFlag
  sprite0Hit := b.sprite0Hit
  spriteOverflow := b.spriteOverflow
  nmiEnable := b.nmiEnable
  warmupComplete := b.warmupComplete
  lastReadCycle := 0
  preventSetCycle := none
  vblState := if b.vblankFlag then .active else .clear
  mirroring := b.mirroring
  rest := b.ppuRest

/-- The timer after construction: with the flag set the end of VBlank comes next (R181, R182, R185), else what the
argument says comes next; no set has been delivered. -/
def builtTimer (b : BuildArgs) : Timer where
  phase := if b.vblankFlag then .vblank else b.framePhase
  setDueAt := none

/-- The block after construction with a given test RAM (R34). -/
def built (b : BuildArgs) (tram : Option (List Host.Cell)) : State where
  ext := 0
  int := 0
  ram := []
  tram := tram
  cart := b.cart
  ppu := builtPpu b
  apu := b.apu
  dma := b.dma
  ctrl := b.ctrl
  masterCycle := b.masterCycle
  timer := builtTimer b
  dwReadMode := b.dwReadMode
  observer := if b.obsPresent then some [] else none
  resp := .nothing
  inbox := []
  mid := []

/-- Construct (R220): refused when a slice is given whose length is not exactly 32768 (R221). -/
def construct (b : BuildArgs) : Host.Outcome State Fault Refusal :=
  match b.tramSlice with
  | none => .next (built b none)
  | some bytes =>
    if bytes.length = Bank.size .tram then .next (built b (some (Memory.ofBytes .tram bytes 0)))
    else .refused .testRamLength

/-- The arguments `State.reset` is constructed with: DESIGN CHOICE (log entries 4 to 6 and 10). -/
def resetArgs : BuildArgs where
  cart := none
  tramSlice := none
  obsPresent := false
  vblankFlag := false
  sprite0Hit := false
  spriteOverflow := false
  nmiEnable := false
  warmupComplete := false
  mirroring := ⟨0⟩
  ppuRest := ⟨0⟩
  apu := ⟨0⟩
  dma := ⟨0⟩
  ctrl := ⟨0⟩
  masterCycle := 0
  framePhase := .start
  dwReadMode := .peek

end Sys2Proof.Machine
end

