-- ==== Sys2Proof/Safety.lean ====
section
/-! DEFINITION. The invariants of the machine and the other terms the statements use. -/

namespace Sys2Proof.Machine

/-- The VBlank machine and the fields beside it agree. -/
structure PpuCoherent (now : Cycle) (p : Ppu) : Prop where
  /-- "`vblank_flag == 1` exactly when `vbl_state == Active`" (`43_ppu_registers.md` R181). -/
  flag : p.vblankFlag = true ↔ p.vblState = .active
  /-- The marker is held exactly while this frame's set is cancelled (R182, R184). -/
  marker : p.preventSetCycle.isSome = true ↔ p.vblState = .suppressedThisFrame
  /-- A pending set is not yet past (R185). -/
  pending : ∀ c, p.vblState = .setPending c → now.toNat ≤ c.toNat
  /-- The most recent status READ is not in the future (R184). -/
  lastRead : p.lastReadCycle.toNat ≤ now.toNat

/-- The scanline timer and the VBlank machine agree (`43_ppu_registers.md` R182, R185). -/
structure TimerCoherent (now : Cycle) (p : Ppu) (t : Timer) : Prop where
  /-- A set is pending only between `Schedule` and `SetDue`. -/
  pending : ∀ c, p.vblState = .setPending c → t.phase = .scheduled
  /-- The machine is `Active` only between `SetDue` and `EndOfVBlank`. -/
  active : p.vblState = .active → t.phase = .vblank
  /-- A cancelled set is one that this frame's `Schedule` announced. -/
  cancelled : p.vblState = .suppressedThisFrame → t.phase ≠ .start
  /-- The `SetDue` of a cancelled set is not yet past before it is delivered. -/
  due : t.phase = .scheduled → ∀ c, p.preventSetCycle = some c → now.toNat ≤ c.toNat
  /-- The last `SetDue` is not in the future. -/
  delivered : ∀ c, t.setDueAt = some c → c.toNat ≤ now.toNat

/-- The invariant every step keeps: both memories in canonical form, the PPU's fields and the timer coherent. -/
structure State.Inv (s : State) : Prop where
  ram : Memory.wf .ram s.ram
  tram : ∀ m, s.tram = some m → Memory.wf .tram m
  ppu : PpuCoherent s.masterCycle s.ppu
  timer : TimerCoherent s.masterCycle s.ppu s.timer

/-- The input delivers no `FrameBoundary`, neither between two operations nor inside one. -/
def Input.withinFrame : Input → Bool
  | .word _ _ es => es.all (fun e => e != .frameBoundary)
  | .event e => e != .frameBoundary
  | .attach _ => true

/-- A frame whose VBlank set was cancelled (`43_ppu_registers.md` R183), with no frame boundary among the inputs. -/
structure State.Dark (s : State) : Prop where
  state : s.ppu.vblState = .suppressedThisFrame
  flag : s.ppu.vblankFlag = false
  frame : s.inbox.all Input.withinFrame = true

/-- The observer's history after one more call, if an observer is attached (`60_exceptions.md` R210). -/
def called (o : Option (List ObserverCall)) (a : Addr) (x : Byte) (w : Bool) : Option (List ObserverCall) :=
  o.map (fun calls => calls ++ [⟨a, x, w⟩])

/-- The operation that uses a capability of the address's handler: READ, WRITE or PEEK (`40_dispatch.md` R104). -/
def requestOf (c : Capability) (a : Addr) : Instr :=
  match c with
  | .read => .read a
  | .write v => .write a v
  | .peek => .peek a

/-- The byte of RAM a logical address names (`10_state.md` R14). -/
def State.ramByte (s : State) (a : Addr) : Byte := Memory.read .ram s.ram (a.toNat % 2048)

/-- The instruction writes the RAM byte at offset `k` with a byte of its own: a WRITE, spelled by a request word or by
the RAM row. (A DUMMYWRITE puts back the byte that is there.) -/
def writesRamAt (k : Nat) : Instr → Bool
  | .write a _ => decide (a.toNat < 0x2000 ∧ a.toNat % 2048 = k)
  | .ram a (.write _) => decide (a.toNat % 2048 = k)
  | _ => false

/-- Instructions run one after the other, each on the state the one before it left. -/
def execAll : List Instr → State → Host.Outcome State Fault Refusal
  | [], s => .next s
  | i :: is, s =>
    match exec i s with
    | .next t => execAll is t
    | .fault r => .fault r
    | .refused r => .refused r

end Sys2Proof.Machine
end

