-- ==== Sys2Proof/Certificates/Slice0/Obligations.lean ====
section
/-! DEFINITION. The statements for the provers, each with the rule of spec/ it formalises. Statements of the form
"exec answers next (this state)" give the result, the completion and the frame at once: every field that is not named
in the record update is unchanged. -/

open Sys2Proof Sys2Proof.Machine

/-! ### Encodings -/

/-- Decode and encode agree on every well-formed instruction of the table. Where a handler row's word carries its
capability and byte is the model's choice (log entry 1). -/
def Obligations.EncodeThenDecodeGivesTheInstruction : Prop :=
  ∀ i : Instr, i.wellFormed = true → decode i.format (encode i) = .ok i

/-- What the decoder gives belongs to its format and row: the address rows are decoded by match and mask, the
well-formedness check is written from the first and last address. -/
def Obligations.DecodedInstructionsAreWellFormed : Prop :=
  ∀ (f : Format) (w : PortWord) (i : Instr), decode f w = .ok i → i.format = f ∧ i.wellFormed = true

/-- R75: exactly one block of R74 matches an address, and its range is that of R70. -/
def Obligations.ExactlyOneBlockClaimsEachAddress : Prop :=
  ∀ a : Addr, (addrRows.filter (fun r => r.claims a)).map (fun r => r.range) = [rangeOf a]

/-- R70: the eight ranges, by their bounds. -/
def Obligations.RangeFollowsTheAddressMap : Prop :=
  ∀ a : Addr,
    (rangeOf a = .ram ↔ a.toNat ≤ 0x1FFF) ∧
    (rangeOf a = .ppu ↔ 0x2000 ≤ a.toNat ∧ a.toNat ≤ 0x3FFF) ∧
    (rangeOf a = .apu ↔ 0x4000 ≤ a.toNat ∧ a.toNat ≤ 0x4013) ∧
    (rangeOf a = .oamDma ↔ a = 0x4014) ∧
    (rangeOf a = .apuStatus ↔ a = 0x4015) ∧
    (rangeOf a = .controller ↔ a = 0x4016 ∨ a = 0x4017) ∧
    (rangeOf a = .openBus ↔ 0x4018 ≤ a.toNat ∧ a.toNat ≤ 0x401F) ∧
    (rangeOf a = .cartridge ↔ 0x4020 ≤ a.toNat)

/-- Sanity: words written out from the encodings of R81 (`95_test_vectors.md` V2, V3, V5, V6) and from the rows of
R74 and R78, with the model's own place for a handler row's capability and byte (log entry 1). -/
def Obligations.SpelledWordsDecode : Prop :=
  decode .req 0x01FFF00 = .ok (.read 0x1FFF) ∧
  decode .req 0x107FF11 = .ok (.write 0x07FF 0x11) ∧
  decode .req 0x2401F00 = .ok (.peek 0x401F) ∧
  decode .req 0x308FF00 = .ok (.read16 0x08FF) ∧
  decode .req 0x408FF00 = .ok (.read16bug 0x08FF) ∧
  decode .req 0x5001000 = .ok (.dummyread 0x0010) ∧
  decode .req 0x6401800 = .ok (.dummywrite 0x4018) ∧
  decode .req 0x7000000 = .ok .reservedOp7 ∧
  decode .addr 0x000008FF = .ok (.ram 0x08FF .read) ∧
  decode .addr 0x01223FFF = .ok (.ppu 0x3FFF (.write 0x22)) ∧
  decode .addr 0x02004013 = .ok (.apu4010 0x4013 .peek) ∧
  decode .addr 0x00007FFF = .ok (.cartridge6000 0x7FFF .read) ∧
  decode .ppureg 0x00003FFA = .ok (.ppureg2 0x3FFA .read)

/-- R85: the data field of a request word matters to WRITE (op code 1) only. -/
def Obligations.DataFieldIsIgnoredExceptByWrite : Prop :=
  ∀ (op : BitVec 3) (a : Addr) (v v' : Byte), op ≠ 1 →
    decode .req (reqWord op a v) = decode .req (reqWord op a v')

/-- R83 and the spec's decision D24: every word of op code 7 is the reserved row, and no state gives it a step. -/
def Obligations.ReservedOpCodeIsRefused : Prop :=
  (∀ (a : Addr) (v : Byte), decode .req (reqWord 7 a v) = .ok .reservedOp7) ∧
  (∀ s : State, exec .reservedOp7 s = .refused .reservedOp)

/-- R77: the second address of a 16-bit read, and where the two operations differ. -/
def Obligations.SecondAddressesDifferOnlyAtPageEnds : Prop :=
  (∀ a : Addr, (hiAddr a).toNat = (a.toNat + 1) % 0x10000) ∧
  (∀ a : Addr, (hiAddrBug a).toNat =
    if a.toNat % 0x100 = 0xFF then a.toNat - 0xFF else a.toNat + 1) ∧
  (∀ a : Addr, hiAddrBug a ≠ hiAddr a ↔ a.toNat % 0x100 = 0xFF) ∧
  (∀ hi lo : Byte, (combine hi lo).toNat = hi.toNat * 0x100 + lo.toNat)

/-! ### The step -/

/-- A step runs the decoded instruction: the head of the inbox is taken, its "between" list becomes what the
environment does inside the operation, and what of it found no place there comes next. A request that must come before
the `SetDue` of its cycle and comes after it is refused (R185, D14), only at the very cycle of that `SetDue`. The inbox,
the list and the refusal are the model's choice (log entries 7, 8 and 10; the moves themselves are D20). -/
def Obligations.StepRunsTheDecodedRequest : Prop :=
  ∀ (s : State) (f : Format) (w : PortWord) (es : List Event) (rest : List Input) (i : Instr),
    s.inbox = .word f w es :: rest → decode f w = .ok i →
    ((s.timer.setDueAt ≠ some s.masterCycle ∨ followsSet i = true) →
      step s = match exec i { s with inbox := rest, mid := es } with
        | .next t => .next { t with inbox := t.mid.map Input.event ++ t.inbox, mid := [] }
        | .fault r => .fault r
        | .refused r => .refused r) ∧
    (s.timer.setDueAt = some s.masterCycle → followsSet i = false → step s = .refused .requestAfterSet)

/-- A word placed by `withFetchWord` is the very next instruction, in a state that admits it: the model's choice (log
entries 2, 7 and 10). -/
def Obligations.PlacedWordRunsNext : Prop :=
  ∀ (s : State) (nbits w : Nat) (i : Instr), decodeTableWord nbits w = some i →
    (s.timer.setDueAt ≠ some s.masterCycle ∨ followsSet i = true) →
    step (s.withFetchWord nbits w) = match exec i { s with mid := [] } with
      | .next t => .next { t with inbox := t.mid.map Input.event ++ t.inbox, mid := [] }
      | .fault r => .fault r
      | .refused r => .refused r

/-- With no input the block stays as it is, an event is taken at once, and a word the decoder turns away is refused:
the model's choice (log entries 7 and 13). -/
def Obligations.StepTakesTheNextInput : Prop :=
  (∀ s : State, s.inbox = [] → step s = .next s) ∧
  (∀ (s : State) (e : Event) (rest : List Input), s.inbox = .event e :: rest →
    step s = match deliver e { s with inbox := rest } with
      | .ok t => .next t
      | .error r => .refused r) ∧
  (∀ (s : State) (f : Format) (w : PortWord) (es : List Event) (rest : List Input) (e : DecodeError),
    s.inbox = .word f w es :: rest → decode f w = .error e → step s = .refused (.badWord e))

/-! ### The ADDR rows: READ, WRITE or PEEK, dispatched by the row (log entry 1) -/

/-- R120, R121, R122, with the dispatcher's part (R100, R101). That a row is an instruction is the model's choice (log
entry 1), and the peek is the spec's inference from R120. -/
def Obligations.RamRowServesOneByte : Prop :=
  ∀ (a : Addr) (s : State),
    (∀ x, x = Memory.read .ram s.ram (a.toNat % 2048) →
      exec (.ram a .read) s =
        .next { s with ext := x, observer := called s.observer a x false, resp := .byte x } ∧
      exec (.ram a .peek) s = .next { s with resp := .byte x }) ∧
    (∀ v : Byte, ∃ m, exec (.ram a (.write v)) s =
        .next { s with ext := v, ram := m, observer := called s.observer a v true, resp := .nothing } ∧
      ∀ k, Memory.read .ram m k = if k = a.toNat % 2048 then v else Memory.read .ram s.ram k)

/-- R123, R170: the PPU row is the PPU register row of the address's low three bits. -/
def Obligations.PpuRowSelectsTheRegister : Prop :=
  ∀ (a : Addr) (c : Capability) (s : State),
    ∃ i ∈ [(0, Instr.ppureg0 a c), (1, .ppureg1 a c), (2, .ppureg2 a c), (3, .ppureg3 a c), (4, .ppureg4 a c),
        (5, .ppureg5 a c), (6, .ppureg6 a c), (7, .ppureg7 a c)],
      i.1 = a.toNat % 8 ∧ ∃ t, exec (.ppu a c) s = .next t ∧ exec i.2 s = .next t

/-- R124, R125, R126, R127, with the dispatcher's part (R100, R101, R103): a read of APU_STATUS is recorded in `int`, of
the other two rows in `ext`. The functions and their arguments are D10; a row as an instruction is log entry 1. -/
def Obligations.ApuRowsCallTheApu : Prop :=
  ∀ (a : Addr) (s : State) (x : Byte) (p : ApuState),
    (x, p) = Config.apuRead s.apu a s.ext (s.int &&& Config.internalMask) →
    exec (.apuStatus a .read) s = .next { s with
      apu := p, int := x, observer := called s.observer a x false, resp := .byte x } ∧
    (∀ row ∈ [Instr.apu4000, Instr.apu4010], exec (row a .read) s = .next { s with
      apu := p, ext := x, observer := called s.observer a x false, resp := .byte x }) ∧
    (∀ row ∈ [Instr.apu4000, Instr.apu4010, Instr.apuStatus],
      (∀ v : Byte, exec (row a (.write v)) s = .next { s with
        apu := Config.apuWrite s.apu a v, ext := v, observer := called s.observer a v true, resp := .nothing }) ∧
      exec (row a .peek) s = .next { s with
        resp := .byte (Config.apuPeek s.apu a s.ext (s.int &&& Config.internalMask)) })

/-- R128 (D10), with the dispatcher's part (R100, R101); a row as an instruction is log entry 1. -/
def Obligations.OamDmaRowCallsTheDma : Prop :=
  ∀ (a : Addr) (s : State) (x : Byte) (p : DmaState), (x, p) = Config.dmaRead s.dma a s.ext →
    exec (.oamDma a .read) s = .next { s with
      dma := p, ext := x, observer := called s.observer a x false, resp := .byte x } ∧
    (∀ v : Byte, exec (.oamDma a (.write v)) s = .next { s with
      dma := Config.dmaWrite s.dma a v, ext := v, observer := called s.observer a v true, resp := .nothing }) ∧
    exec (.oamDma a .peek) s = .next { s with resp := .byte (Config.dmaPeek s.dma a s.ext) }

/-- R129 (D10), with the dispatcher's part (R100, R101); a row as an instruction is log entry 1. -/
def Obligations.ControllerRowCallsTheControllers : Prop :=
  ∀ (a : Addr) (s : State) (x : Byte) (p : CtrlState), (x, p) = Config.ctrlRead s.ctrl a s.ext →
    exec (.controller a .read) s = .next { s with
      ctrl := p, ext := x, observer := called s.observer a x false, resp := .byte x } ∧
    (∀ v : Byte, exec (.controller a (.write v)) s = .next { s with
      ctrl := Config.ctrlWrite s.ctrl a v, ext := v, observer := called s.observer a v true, resp := .nothing }) ∧
    exec (.controller a .peek) s = .next { s with resp := .byte (Config.ctrlPeek s.ctrl a s.ext) }

/-- R133, R134, R135: the fallback handler, with the dispatcher's part (R100, R101). The peek is the spec's inference
from R133 and R176; a row as an instruction is log entry 1. -/
def Obligations.OpenBusRowReturnsTheLatch : Prop :=
  ∀ (a : Addr) (s : State),
    exec (.openBus a .read) s =
      .next { s with observer := called s.observer a s.ext false, resp := .byte s.ext } ∧
    (∀ v : Byte, exec (.openBus a (.write v)) s =
      .next { s with ext := v, observer := called s.observer a v true, resp := .nothing }) ∧
    exec (.openBus a .peek) s = .next { s with resp := .byte s.ext }

/-- R130, R131, R132 with R45, and the dispatcher's part (R100, R101): a cartridge, if attached, serves every address;
else the test RAM, if there is one, serves `0x8000` and up; else nothing does (D6, D7, D10, D12). A row as an
instruction is log entry 1. -/
def Obligations.CartridgeRowsFollowWhatServesThem : Prop :=
  ∀ row ∈ [Instr.cartridge4020, Instr.cartridge4040, Instr.cartridge4080, Instr.cartridge4100, Instr.cartridge4200,
      Instr.cartridge4400, Instr.cartridge4800, Instr.cartridge5000, Instr.cartridge6000, Instr.cartridge8000],
    ∀ (a : Addr) (s : State),
    (∀ c x p, s.cart = some c → (x, p) = Config.cartRead c a →
      exec (row a .read) s = .next { s with
        cart := some p, ext := x, observer := called s.observer a x false, resp := .byte x } ∧
      (∀ v : Byte, exec (row a (.write v)) s = .next { s with
        cart := some (Config.cartWrite c a v),
        ppu := { s.ppu with mirroring := Config.cartMirroring (Config.cartWrite c a v) },
        ext := v, observer := called s.observer a v true, resp := .nothing }) ∧
      exec (row a .peek) s = .next { s with resp := .byte (Config.cartPeek c a) }) ∧
    (∀ m x, s.cart = none → s.tram = some m → 0x8000 ≤ a.toNat → x = Memory.read .tram m (a.toNat % 0x8000) →
      exec (row a .read) s =
        .next { s with ext := x, observer := called s.observer a x false, resp := .byte x } ∧
      (∀ v : Byte, ∃ m', exec (row a (.write v)) s = .next { s with
          tram := some m', ext := v, observer := called s.observer a v true, resp := .nothing } ∧
        ∀ k, Memory.read .tram m' k = if k = a.toNat % 0x8000 then v else Memory.read .tram m k) ∧
      exec (row a .peek) s = .next { s with resp := .byte x }) ∧
    (s.cart = none → (s.tram = none ∨ a.toNat < 0x8000) →
      exec (row a .read) s =
        .next { s with observer := called s.observer a s.ext false, resp := .byte s.ext } ∧
      (∀ v : Byte, exec (row a (.write v)) s =
        .next { s with ext := v, observer := called s.observer a v true, resp := .nothing }) ∧
      exec (row a .peek) s = .next { s with resp := .byte s.ext })

/-! ### The PPU register handler -/

/-- R171, bit by bit. -/
def Obligations.StatusByteLayout : Prop :=
  ∀ (p : Ppu) (ext : Byte),
    (statusByte p ext).getLsbD 7 = p.vblankFlag ∧
    (statusByte p ext).getLsbD 6 = p.sprite0Hit ∧
    (statusByte p ext).getLsbD 5 = p.spriteOverflow ∧
    ∀ n, n < 5 → (statusByte p ext).getLsbD n = ext.getLsbD n

/-- R172: the status byte before the read is answered and recorded in `ext`; the flag is cleared and the cycle recorded
always; a pending set due at this very cycle is cancelled (the window is D14), an active flag's state left. A row as an
instruction is log entry 1. -/
def Obligations.StatusRegisterReadClearsTheFlag : Prop :=
  ∀ (a : Addr) (s : State) (x : Byte), x = statusByte s.ppu s.ext →
    exec (.ppureg2 a .read) s = .next { s with
      ext := x,
      observer := called s.observer a x false,
      resp := .byte x,
      ppu := { s.ppu with
        vblankFlag := false,
        lastReadCycle := s.masterCycle,
        preventSetCycle :=
          if s.ppu.vblState = .setPending s.masterCycle then some s.masterCycle else s.ppu.preventSetCycle,
        vblState :=
          if s.ppu.vblState = .setPending s.masterCycle then .suppressedThisFrame
          else if s.ppu.vblState = .active then .clear else s.ppu.vblState } }

/-- R174: `ext` takes the byte; the write is ignored before the warm-up is complete; else the enable bit, and then the
PPU's own flags. Which bit enables is D27's open parameter; that the PPU's own function leaves the other named fields as
they are is D26 (log entry 17); a row as an instruction is log entry 1. -/
def Obligations.ControlRegisterWriteNeedsWarmup : Prop :=
  ∀ (a : Addr) (v : Byte) (s : State),
    (s.ppu.warmupComplete = false → exec (.ppureg0 a (.write v)) s =
      .next { s with ext := v, observer := called s.observer a v true, resp := .nothing }) ∧
    (s.ppu.warmupComplete = true →
      exec (.ppureg0 a (.write v)) s = .next { s with
        ext := v,
        observer := called s.observer a v true,
        resp := .nothing,
        ppu := { s.ppu with
          nmiEnable := v.getLsbD Config.nmiEnableBit.val,
          rest := Config.ppuRegWrite { s.ppu with nmiEnable := v.getLsbD Config.nmiEnableBit.val } 0 v } })

/-- R173 (every register but 2) and R175 (every register but 0), with the dispatcher's part (R100, R101): the PPU's own
functions, which leave the named fields unchanged (D26, log entry 17). A row as an instruction is log entry 1. -/
def Obligations.OtherPpuRegistersAreThePpusOwn : Prop :=
  (∀ r ∈ [((0 : BitVec 3), Instr.ppureg0), (1, .ppureg1), (3, .ppureg3), (4, .ppureg4), (5, .ppureg5),
      (6, .ppureg6), (7, .ppureg7)], ∀ (a : Addr) (s : State) (x : Byte) (p : PpuRest),
    (x, p) = Config.ppuRegRead s.ppu r.1 s.ext →
    exec (r.2 a .read) s = .next { s with
      ppu := { s.ppu with rest := p }, ext := x, observer := called s.observer a x false, resp := .byte x }) ∧
  (∀ r ∈ [((1 : BitVec 3), Instr.ppureg1), (2, .ppureg2), (3, .ppureg3), (4, .ppureg4), (5, .ppureg5),
      (6, .ppureg6), (7, .ppureg7)], ∀ (a : Addr) (v : Byte) (s : State),
    exec (r.2 a (.write v)) s = .next { s with
      ppu := { s.ppu with rest := Config.ppuRegWrite s.ppu r.1 v },
      ext := v, observer := called s.observer a v true, resp := .nothing })

/-- R176: no peek of a PPU register mutates anything; the row as an instruction is log entry 1. -/
def Obligations.PpuRegisterPeekMutatesNothing : Prop :=
  (∀ (a : Addr) (s : State),
    exec (.ppureg2 a .peek) s = .next { s with resp := .byte (statusByte s.ppu s.ext) }) ∧
  (∀ row ∈ [Instr.ppureg0, Instr.ppureg1, Instr.ppureg3, Instr.ppureg4, Instr.ppureg5, Instr.ppureg6,
      Instr.ppureg7], ∀ (a : Addr) (s : State),
    exec (row a .peek) s = .next { s with resp := .byte s.ext })

/-- R177: every READ of register 2 clears the flag and so lowers the NMI line; no PEEK does. -/
def Obligations.StatusReadsClearAndPeeksDoNot : Prop :=
  ∀ (a : Addr) (s : State), 0x2000 ≤ a.toNat → a.toNat ≤ 0x3FFF → a.toNat % 8 = 2 →
    (∃ t, exec (.read a) s = .next t ∧ t.resp = .byte (statusByte s.ppu s.ext) ∧
      t.ext = statusByte s.ppu s.ext ∧ t.int = s.int ∧
      t.ppu.vblankFlag = false ∧ nmiLine t.ppu = false ∧ t.ppu.lastReadCycle = s.masterCycle) ∧
    (∃ t, exec (.peek a) s = .next t ∧ t.resp = .byte (statusByte s.ppu s.ext) ∧ t.ppu = s.ppu ∧ t.ext = s.ext)

/-! ### READ, WRITE, PEEK -/

/-- R80, R104: the set of operations is closed. The address word of any address decodes to a row, and executing it is
READ, WRITE or PEEK of that address; a word of any format that decodes is one of the seven operations, or the reserved
op code. That a row is an instruction is the model's choice (log entry 1). -/
def Obligations.EveryWordIsOneOfTheOperations : Prop :=
  (∀ (a : Addr) (c : Capability), ∃ i, decode .addr (addrWord a c) = .ok i ∧
    ∀ s : State, exec i s = exec (requestOf c a) s) ∧
  (∀ (f : Format) (w : PortWord) (i : Instr), decode f w = .ok i →
    ∃ j : Instr, j.format = .req ∧ followsSet j = followsSet i ∧ ∀ s : State, exec i s = exec j s)

/-- R100: the handler's byte is answered and recorded, in `int` for `0x4015` and in `ext` for every other address,
then the observer is called. -/
def Obligations.ReadRecordsTheHandlersByte : Prop :=
  ∀ (a : Addr) (s : State),
    exec (.read a) s = .next { (hRead (rangeOf a).handler a s).2 with
      ext := if a = 0x4015 then s.ext else (hRead (rangeOf a).handler a s).1,
      int := if a = 0x4015 then (hRead (rangeOf a).handler a s).1 else s.int,
      observer := called s.observer a (hRead (rangeOf a).handler a s).1 false,
      resp := .byte (hRead (rangeOf a).handler a s).1 }

/-- R101: `ext` takes the byte for every address, before the handler (D4); `int` is never written; the observer is called
last. -/
def Obligations.WriteRecordsTheByteEverywhere : Prop :=
  ∀ (a : Addr) (v : Byte) (s : State),
    exec (.write a v) s = .next { hWrite (rangeOf a).handler a v { s with ext := v } with
      ext := v,
      int := s.int,
      observer := called s.observer a v true,
      resp := .nothing }

/-- R102: only the response changes. -/
def Obligations.PeekChangesNoState : Prop :=
  ∀ (a : Addr) (s : State),
    exec (.peek a) s = .next { s with resp := .byte (hPeek (rangeOf a).handler a s) }

/-- READ of RAM, whole: the byte, the latch, the observer, and nothing else (R100, R120). -/
def Obligations.ReadOfRamChangesOnlyTheLatch : Prop :=
  ∀ (a : Addr) (s : State), a.toNat < 0x2000 →
    exec (.read a) s = .next { s with
      ext := s.ramByte a, observer := called s.observer a (s.ramByte a) false, resp := .byte (s.ramByte a) } ∧
    exec (.peek a) s = .next { s with resp := .byte (s.ramByte a) }

/-- WRITE of RAM, whole: one byte of RAM, the latch, the observer, and nothing else (R101, R121). -/
def Obligations.WriteOfRamStoresOneByte : Prop :=
  ∀ (a : Addr) (v : Byte) (s : State), a.toNat < 0x2000 →
    ∃ m, exec (.write a v) s = .next { s with
        ext := v, ram := m, observer := called s.observer a v true, resp := .nothing } ∧
      ∀ k, Memory.read .ram m k = if k = a.toNat % 2048 then v else Memory.read .ram s.ram k

/-- R103: a READ of `0x4015` updates `int` and must not change what a subsequent unmapped read returns. -/
def Obligations.ApuStatusReadDoesNotReachTheOpenBus : Prop :=
  ∀ (s : State) (b : Addr), s.unmapped b = true →
    ∃ t x, exec (.read 0x4015) s = .next t ∧ t.resp = .byte x ∧ t.int = x ∧ t.ext = s.ext ∧
      ∃ u, exec (.read b) t = .next u ∧ u.resp = .byte s.ext ∧ u.ext = s.ext ∧ u.int = x

/-- R54: a READ or PEEK of an address nothing serves returns `ext` and leaves both latches as they are. -/
def Obligations.UnmappedReadsReturnTheOpenBus : Prop :=
  ∀ (a : Addr) (s : State), s.unmapped a = true →
    exec (.read a) s = .next { s with observer := called s.observer a s.ext false, resp := .byte s.ext } ∧
    exec (.peek a) s = .next { s with resp := .byte s.ext }

/-- R54: after a WRITE of `v` anywhere the next READ of any unmapped address returns `v`. -/
def Obligations.WrittenByteIsReadBackFromUnmapped : Prop :=
  ∀ (a b : Addr) (v : Byte) (s : State), s.unmapped b = true →
    ∃ t u, exec (.write a v) s = .next t ∧ t.ext = v ∧ exec (.read b) t = .next u ∧ u.resp = .byte v

/-- R45, R54: which addresses nothing serves (D6). -/
def Obligations.UnmappedAddressesAreThese : Prop :=
  ∀ (a : Addr) (s : State), s.unmapped a = true ↔
    (0x4018 ≤ a.toNat ∧ a.toNat ≤ 0x401F) ∨
    (0x4020 ≤ a.toNat ∧ s.cart = none ∧ (s.tram = none ∨ a.toNat < 0x8000))

/-- R15, R43: after a WRITE through any mirror, every mirror reads the byte. -/
def Obligations.AllMirrorsReadTheWrittenByte : Prop :=
  ∀ (a c : Addr) (v : Byte) (s : State), a.toNat < 0x2000 → c.toNat < 0x2000 → c.toNat % 2048 = a.toNat % 2048 →
    ∃ t u w, exec (.write a v) s = .next t ∧ exec (.read c) t = .next u ∧ u.resp = .byte v ∧
      exec (.peek c) t = .next w ∧ w.resp = .byte v

/-- R56: a byte written to RAM stays until the same offset is written again, whatever instructions run between, the
environment's moves inside them included. -/
def Obligations.RamKeepsAByteUntilWrittenAgain : Prop :=
  ∀ (a c : Addr) (v : Byte) (s t u : State) (is : List Instr),
    a.toNat < 0x2000 → c.toNat < 0x2000 → c.toNat % 2048 = a.toNat % 2048 →
    exec (.write a v) s = .next t →
    (∀ i ∈ is, writesRamAt (a.toNat % 2048) i = false) → execAll is t = .next u →
    ∃ w, exec (.read c) u = .next w ∧ w.resp = .byte v

/-- R56 for the test RAM: while no cartridge is attached and test RAM is present (D6). That a WRITE to it is stored is
the spec's decision D7. -/
def Obligations.TestRamReadsBackWhatWasWritten : Prop :=
  ∀ (a c : Addr) (v : Byte) (s : State), s.cart = none → s.tram.isSome = true →
    0x8000 ≤ a.toNat → 0x8000 ≤ c.toNat →
    ∃ t u, exec (.write a v) s = .next t ∧ exec (.read c) t = .next u ∧
      (c = a → u.resp = .byte v) ∧
      (c ≠ a → ∃ w x, exec (.read c) s = .next w ∧ w.resp = .byte x ∧ u.resp = .byte x)

/-! ### Composite operations -/

/-- R150: two full READs, low byte first, `a +% 1` second, the environment's moves between
(D9, D20). -/
def Obligations.Read16IsTwoReads : Prop :=
  ∀ (a : Addr) (s : State), ∃ t u lo hi,
    exec (.read a) s = .next t ∧ t.resp = .byte lo ∧
    exec (.read (a + 1)) (between false t) = .next u ∧ u.resp = .byte hi ∧
    exec (.read16 a) s = .next { u with resp := .word (hi ++ lo) }

/-- R151: as READ16, but the second address does not carry into the page number (D9, D20). -/
def Obligations.Read16BugStaysInThePage : Prop :=
  ∀ (a : Addr) (s : State), ∃ t u lo hi,
    exec (.read a) s = .next t ∧ t.resp = .byte lo ∧
    exec (.read (if a.toNat % 0x100 = 0xFF then a - 0xFF else a + 1)) (between false t) = .next u ∧
    u.resp = .byte hi ∧
    exec (.read16bug a) s = .next { u with resp := .word (hi ++ lo) }

/-- R152: a READ in every effect on the state, its value dropped. -/
def Obligations.DummyReadIsAReadWithoutItsValue : Prop :=
  ∀ (a : Addr) (s : State), ∃ t,
    exec (.read a) s = .next t ∧ exec (.dummyread a) s = .next { t with resp := .nothing }

/-- R153, R156: the byte is fetched by PEEK, or by the handler's read without the latch update and without the
observer, and then written by a full WRITE (D8, D20). -/
def Obligations.DummyWriteWritesBackTheFetchedByte : Prop :=
  (∀ (a : Addr) (s : State), s.dwReadMode = .peek → ∃ p x t,
    exec (.peek a) s = .next p ∧ p.resp = .byte x ∧
    exec (.write a x) (between (controlAddr (rangeOf a) a) s) = .next t ∧ exec (.dummywrite a) s = .next t) ∧
  (∀ (a : Addr) (s : State), s.dwReadMode = .readNoLatch → ∃ r x t,
    exec (.read a) s = .next r ∧ r.resp = .byte x ∧
    exec (.write a x)
      (between (controlAddr (rangeOf a) a)
        { r with ext := s.ext, int := s.int, observer := s.observer, resp := s.resp }) = .next t ∧
    exec (.dummywrite a) s = .next t)

/-- R153, corner 1: a DUMMYWRITE of RAM leaves every byte of RAM as it is and puts the byte in `ext`. -/
def Obligations.DummyWriteOfRamKeepsTheByte : Prop :=
  ∀ (a : Addr) (s : State), a.toNat < 0x2000 → ∃ t, exec (.dummywrite a) s = .next t ∧
    t.ext = s.ramByte a ∧ t.int = s.int ∧ ∀ k, Memory.read .ram t.ram k = Memory.read .ram s.ram k

/-- R155: READ, DUMMYWRITE, WRITE at one RAM address. -/
def Obligations.ReadModifyWriteSequence : Prop :=
  ∀ (a : Addr) (s : State) (f : Byte → Byte), a.toNat < 0x2000 →
    ∃ t u w, exec (.read a) s = .next t ∧ t.resp = .byte (s.ramByte a) ∧ t.ext = s.ramByte a ∧
      exec (.dummywrite a) t = .next u ∧ u.ext = s.ramByte a ∧
      exec (.write a (f (s.ramByte a))) u = .next w ∧ w.ext = f (s.ramByte a) ∧
      ∀ k, Memory.read .ram w.ram k =
        if k = a.toNat % 2048 then f (s.ramByte a) else Memory.read .ram s.ram k

/-! ### Rules of the whole machine -/

/-- R200, R105, R136: every operation answers a next state, whatever the state, and so does every handler row (log
entry 1); no step faults. The second clause holds because the model's type of faults is empty (log entry 21). -/
def Obligations.EveryOperationCompletes : Prop :=
  (∀ (i : Instr) (s : State), i ≠ .reservedOp7 → ∃ t, exec i s = .next t) ∧
  (∀ (s : State) (r : Fault), step s ≠ .fault r)

/-- R11: `int` is written by READs of `0x4015` only: READ and DUMMYREAD there, the 16-bit reads one of whose two
addresses is `0x4015`, and the APU_STATUS row's READ. -/
def Obligations.OnlyReadsOfApuStatusWriteInt : Prop :=
  ∀ (i : Instr) (s t : State), exec i s = .next t →
    t.int = s.int ∨
    i ∈ [Instr.read 0x4015, .dummyread 0x4015, .read16 0x4014, .read16 0x4015, .read16bug 0x4014,
      .read16bug 0x4015] ∨
    ∃ a, i = .apuStatus a .read

/-- R21 (D5), R136: a handler's read and write change nothing but the handler's own target, so neither writes a latch
or calls the observer. -/
def Obligations.HandlersWriteOnlyTheirTargets : Prop :=
  ∀ (a : Addr) (v : Byte) (s : State),
    (hRead .ram a s).2 = s ∧ (hRead .openBus a s).2 = s ∧ hWrite .openBus a v s = s ∧
    (∃ m, hWrite .ram a v s = { s with ram := m }) ∧
    (∃ p q, (hRead .ppu a s).2 = { s with ppu := p } ∧ hWrite .ppu a v s = { s with ppu := q }) ∧
    (∃ p q, (hRead .apu a s).2 = { s with apu := p } ∧ hWrite .apu a v s = { s with apu := q }) ∧
    (∃ p q, (hRead .oamDma a s).2 = { s with dma := p } ∧ hWrite .oamDma a v s = { s with dma := q }) ∧
    (∃ p q, (hRead .controller a s).2 = { s with ctrl := p } ∧ hWrite .controller a v s = { s with ctrl := q }) ∧
    (∃ c, (hRead .cartridge a s).2 = { s with cart := c }) ∧
    (∃ c m k, hWrite .cartridge a v s = { s with
      cart := c, tram := m, ppu := { s.ppu with mirroring := k } })

/-- R210 (D11): the observer's calls per operation, in order, each with the byte returned or written. -/
def Obligations.ObserverSeesEachAccess : Prop :=
  ∀ (s : State) (calls : List ObserverCall), s.observer = some calls →
    (∀ a, ∃ t x, exec (.read a) s = .next t ∧ t.resp = .byte x ∧ t.observer = some (calls ++ [⟨a, x, false⟩])) ∧
    (∀ a v, ∃ t, exec (.write a v) s = .next t ∧ t.observer = some (calls ++ [⟨a, v, true⟩])) ∧
    (∀ a, ∃ t, exec (.peek a) s = .next t ∧ t.observer = some calls) ∧
    (∀ a, ∃ t lo hi, exec (.read16 a) s = .next t ∧ t.resp = .word (hi ++ lo) ∧
      t.observer = some (calls ++ [⟨a, lo, false⟩, ⟨hiAddr a, hi, false⟩])) ∧
    (∀ a, ∃ t lo hi, exec (.read16bug a) s = .next t ∧ t.resp = .word (hi ++ lo) ∧
      t.observer = some (calls ++ [⟨a, lo, false⟩, ⟨hiAddrBug a, hi, false⟩])) ∧
    (∀ a, ∃ t, exec (.dummyread a) s = .next t ∧
      t.observer = some (calls ++ [⟨a, (hRead (rangeOf a).handler a s).1, false⟩])) ∧
    (∀ a, ∃ t, exec (.dummywrite a) s = .next t ∧ t.observer = some (calls ++ [⟨a, t.ext, true⟩]))

/-- R11, R12: outside the APU's addresses `int` is not seen: two states that differ only in it give the same answer
and go on differing only in it. -/
def Obligations.IntIsSeenOnlyAtTheApu : Prop :=
  ∀ (a : Addr) (y : Byte) (s : State), (rangeOf a).handler ≠ .apu →
    ∃ t, exec (.read a) s = .next t ∧ exec (.read a) { s with int := y } = .next { t with int := y }

/-- R180: of all instructions only a write to PPU register 0 can raise the NMI line, when the environment does not
move inside it. -/
def Obligations.OnlyControlWritesRaiseTheNmiLine : Prop :=
  ∀ (i : Instr) (s t : State), s.mid = [] → exec i s = .next t →
    nmiLine s.ppu = false → nmiLine t.ppu = true →
    (∃ a v, i = .write a v ∧ (rangeOf a = .ppu ∧ a.toNat % 8 = 0)) ∨
    (∃ a, i = .dummywrite a ∧ (rangeOf a = .ppu ∧ a.toNat % 8 = 0)) ∨
    (∃ a v, i = .ppu a (.write v) ∧ a.toNat % 8 = 0) ∨
    (∃ a v, i = .ppureg0 a (.write v))

/-- R28, R182, R185 (D14): what the clock and each timer event do in each state of the VBlank machine, in their turn of
the frame (the timer's place in the frame is the model's field, log entry 10), and what the collaborators' other inputs
and moves do (the model's reading, log entry 11). -/
def Obligations.EnvironmentMovesFollowTheRules : Prop :=
  ∀ s : State,
    (∀ n, s.masterCycle.toNat ≤ n.toNat → (∀ c, s.dueCycle = some c → n.toNat ≤ c.toNat) →
      deliver (.clock n) s = .ok { s with masterCycle := n }) ∧
    (∀ c, s.timer.phase = .start → s.ppu.vblState = .clear → s.masterCycle.toNat ≤ c.toNat →
      deliver (.schedule c) s = .ok { s with
        ppu := { s.ppu with vblState := .setPending c }, timer := { s.timer with phase := .scheduled } }) ∧
    (s.timer.phase = .scheduled →
      (s.ppu.vblState = .setPending s.masterCycle →
        deliver .setDue s = .ok { s with
          ppu := { s.ppu with vblState := .active, vblankFlag := true }, timer := ⟨.vblank, some s.masterCycle⟩ }) ∧
      (s.ppu.vblState = .suppressedThisFrame → s.ppu.preventSetCycle = some s.masterCycle →
        deliver .setDue s = .ok { s with timer := ⟨.vblank, some s.masterCycle⟩ }) ∧
      (s.ppu.vblState = .clear → deliver .setDue s = .ok { s with timer := ⟨.vblank, some s.masterCycle⟩ })) ∧
    (s.timer.phase = .vblank →
      (s.ppu.vblState = .active →
        deliver .endOfVBlank s = .ok { s with
          ppu := { s.ppu with vblState := .clear, vblankFlag := false }, timer := { s.timer with phase := .over } }) ∧
      (s.ppu.vblState = .clear ∨ s.ppu.vblState = .suppressedThisFrame →
        deliver .endOfVBlank s = .ok { s with timer := { s.timer with phase := .over } })) ∧
    (s.timer.phase = .over →
      (s.ppu.vblState = .suppressedThisFrame →
        deliver .frameBoundary s = .ok { s with
          ppu := { s.ppu with vblState := .clear, preventSetCycle := none },
          timer := { s.timer with phase := .start } }) ∧
      (s.ppu.vblState = .clear →
        deliver .frameBoundary s = .ok { s with timer := { s.timer with phase := .start } })) ∧
    deliver .warmupDone s = .ok { s with ppu := { s.ppu with warmupComplete := true } } ∧
    (∀ hit overflow, deliver (.spriteFlags hit overflow) s =
      .ok { s with ppu := { s.ppu with sprite0Hit := hit, spriteOverflow := overflow } }) ∧
    (∀ p, deliver (.ppuMoves p) s = .ok { s with ppu := { s.ppu with rest := p } }) ∧
    (∀ p, deliver (.apuMoves p) s = .ok { s with apu := p }) ∧
    (∀ p, deliver (.dmaMoves p) s = .ok { s with dma := p }) ∧
    (∀ p, deliver (.ctrlMoves p) s = .ok { s with ctrl := p }) ∧
    (∀ c p, s.cart = some c → deliver (.cartMoves p) s = .ok { s with cart := some p })

/-- R28, R182, R185, U14, U16: the environment has no such step. That `EndOfVBlank` has none in `SetPending`, that the
clock does not pass a scheduled set, and that a cartridge which is not there does not move, is the model's reading (log
entries 9 to 11). -/
def Obligations.EventsOutOfTurnAreRefused : Prop :=
  ∀ s : State,
    (∀ c, s.timer.phase ≠ .start ∨ s.ppu.vblState ≠ .clear → deliver (.schedule c) s = .error .scheduleOutOfTurn) ∧
    (∀ c, s.timer.phase = .start → s.ppu.vblState = .clear → c.toNat < s.masterCycle.toNat →
      deliver (.schedule c) s = .error .scheduleInPast) ∧
    (s.timer.phase ≠ .scheduled ∨ s.ppu.vblState = .active ∨
        (∃ c, s.ppu.vblState = .setPending c ∧ c ≠ s.masterCycle) ∨
        (s.ppu.vblState = .suppressedThisFrame ∧ s.ppu.preventSetCycle ≠ some s.masterCycle) →
      deliver .setDue s = .error .setDueOutOfTurn) ∧
    (s.timer.phase ≠ .vblank ∨ (∃ c, s.ppu.vblState = .setPending c) →
      deliver .endOfVBlank s = .error .endOfVBlankOutOfTurn) ∧
    (s.timer.phase ≠ .over ∨ s.ppu.vblState = .active ∨ (∃ c, s.ppu.vblState = .setPending c) →
      deliver .frameBoundary s = .error .frameBoundaryOutOfTurn) ∧
    (∀ n, n.toNat < s.masterCycle.toNat → deliver (.clock n) s = .error .clockWentBack) ∧
    (∀ n c, s.masterCycle.toNat ≤ n.toNat → s.dueCycle = some c → c.toNat < n.toNat →
      deliver (.clock n) s = .error .clockPassedDue) ∧
    (∀ p, s.cart = none → deliver (.cartMoves p) s = .error .noCartridge)

/-- R183: a status READ at the exact cycle of the set answers bit 7 clear in a coherent state, cancels the set and
leaves the NMI line low; and within that cycle the read comes first (R185, R204 item 4, D14): a request for READ, READ16,
READ16BUG or DUMMYREAD after the `SetDue` of its cycle is refused, and the environment's moves between the two accesses of
a 16-bit read deliver no `SetDue` at the cycle of the second. The timer's field and the refusal are the model's (log
entry 10). -/
def Obligations.RaceWindowReadCancelsTheSet : Prop :=
  (∀ (a : Addr) (s : State), rangeOf a = .ppu → a.toNat % 8 = 2 → s.Inv →
    s.ppu.vblState = .setPending s.masterCycle →
    ∃ t x, exec (.read a) s = .next t ∧ t.resp = .byte x ∧ x.getLsbD 7 = false ∧
      t.ppu.vblState = .suppressedThisFrame ∧ t.ppu.preventSetCycle = some s.masterCycle ∧
      t.ppu.vblankFlag = false ∧ nmiLine t.ppu = false) ∧
  (∀ s : State, s.timer.setDueAt = some s.masterCycle → ∀ (a : Addr) (es : List Event) (rest : List Input),
    ∀ op ∈ [(0 : BitVec 3), 3, 4, 5], ∀ v, s.inbox = .word .req (reqWord op a v) es :: rest →
      step s = .refused .requestAfterSet) ∧
  (∀ s : State, s.timer.setDueAt ≠ some s.masterCycle →
    (between false s).timer.setDueAt ≠ some (between false s).masterCycle)

/-- R183: in a frame whose set was cancelled the flag stays clear and the NMI line low at every step up to the frame
boundary (D14). -/
def Obligations.CancelledFrameStaysDark : Prop :=
  ∀ s t : State, s.Dark → step s = .next t → t.Dark ∧ nmiLine t.ppu = false

/-- The invariant: canonical memories, and the VBlank machine, its fields and the scanline timer coherent (R181, R184,
R185; the timer is log entry 10). -/
def Obligations.StepKeepsTheInvariant : Prop :=
  ∀ s t : State, s.Inv → step s = .next t → t.Inv

/-- The invariant holds at reset; the construction arguments of `State.reset` are the model's choice (log entries 4
to 6 and 10). -/
def Obligations.ResetMeetsTheInvariant : Prop := State.reset.Inv

/-- R28, R231: `master_cycle` never decreases, and no operation writes it while the environment does not move. -/
def Obligations.MasterCycleNeverDecreases : Prop :=
  (∀ s t : State, step s = .next t → s.masterCycle.toNat ≤ t.masterCycle.toNat) ∧
  (∀ (i : Instr) (s t : State), s.mid = [] → exec i s = .next t → t.masterCycle = s.masterCycle)

/-- R17, R18, R19, R223: the configuration. A cartridge once attached stays (D18, U19; log entry 19); test RAM and
observer are as constructed; `DW_READ_MODE` is a field no step writes, the model's choice (log entry 16). -/
def Obligations.ConfigurationIsFixed : Prop :=
  ∀ s t : State, step s = .next t →
    (s.cart.isSome = true → t.cart.isSome = true) ∧ t.tram.isSome = s.tram.isSome ∧
    t.observer.isSome = s.observer.isSome ∧ t.dwReadMode = s.dwReadMode

/-- R222: attaching a cartridge changes nothing else; a second one is refused (D18). -/
def Obligations.AttachingACartridgeChangesNothingElse : Prop :=
  ∀ (s : State) (c : CartState) (rest : List Input), s.inbox = .attach c :: rest →
    (s.cart = none → step s = .next { s with cart := some c, inbox := rest }) ∧
    (s.cart.isSome = true → step s = .refused .cartridgeAttached)

/-! ### Construction -/

/-- R220, R34 (D13, D18): what a construction leaves, every field; R221 (D7): when it is refused. The timer, the
response, the inbox and the moves are the model's fields (log entries 7, 8, 10 and 12). -/
def Obligations.ConstructionGivesTheInitialState : Prop :=
  ∀ b : BuildArgs,
    (∀ bytes, b.tramSlice = some bytes → bytes.length ≠ 32768 → construct b = .refused .testRamLength) ∧
    ((∀ bytes, b.tramSlice = some bytes → bytes.length = 32768) →
      ∃ s, construct b = .next s ∧
        (∀ i : BitVec 11, Memory.read .ram s.ram i.toNat = Config.ramInit i) ∧
        s.tram.isSome = b.tramSlice.isSome ∧
        (∀ m bytes, s.tram = some m → b.tramSlice = some bytes →
          ∀ k v, bytes[k]? = some v → Memory.read .tram m k = v) ∧
        s = { ext := 0, int := 0, ram := s.ram, tram := s.tram, cart := b.cart,
              ppu := { vblankFlag := b.vblankFlag, sprite0Hit := b.sprite0Hit, spriteOverflow := b.spriteOverflow,
                       nmiEnable := b.nmiEnable, warmupComplete := b.warmupComplete, lastReadCycle := 0,
                       preventSetCycle := none, vblState := if b.vblankFlag then .active else .clear,
                       mirroring := b.mirroring, rest := b.ppuRest },
              apu := b.apu, dma := b.dma, ctrl := b.ctrl, masterCycle := b.masterCycle,
              timer := ⟨if b.vblankFlag then .vblank else b.framePhase, none⟩, dwReadMode := b.dwReadMode,
              observer := if b.obsPresent then some [] else none, resp := .nothing, inbox := [], mid := [] } ∧
        s.Inv)

/-- R16 (D13): the power-on pattern of RAM is not all zero. -/
def Obligations.PowerOnRamIsNotAllZero : Prop :=
  ∃ a : Addr, a.toNat < 0x2000 ∧ ∃ t x, exec (.read a) State.reset = .next t ∧ t.resp = .byte x ∧ x ≠ 0
end

