-- ==== Sys2Proof/Laws/Decode.lean ====
section
/-! SUPPORT. The fields of the encoded words, and the rows' match and mask as bounds on the address. -/

namespace Sys2Proof

theorem field_getElem (lo n : Nat) (w : PortWord) (i : Nat) (hi : i < n) :
    (field lo n w)[i] = w.getLsbD (lo + i) := by
  unfold field
  simp

/-- Bit `k` of a request word. -/
theorem reqWord_getLsbD (op : BitVec 3) (a : Addr) (v : Byte) (k : Nat) (hk : k < 32) :
    (reqWord op a v).getLsbD k =
      if k < 8 then v.getLsbD k else if k < 24 then a.getLsbD (k - 8) else op.getLsbD (k - 24) := by
  have hv : 8 ≤ k → v.getLsbD k = false := fun h => BitVec.getLsbD_of_ge _ _ h
  have ha : 24 ≤ k → a.getLsbD (k - 8) = false := fun h => BitVec.getLsbD_of_ge _ _ (by omega)
  by_cases h8 : k < 8
  · simp [reqWord, h8, hk, show k < 24 by omega]
  · by_cases h24 : k < 24
    · simp [reqWord, h8, h24, hk, hv (by omega)]
    · simp [reqWord, h8, h24, hk, hv (by omega), ha (by omega)]

/-- Bit `k` of an `ADDR` or `PPUREG` word. -/
theorem addrWord_getLsbD (a : Addr) (c : Capability) (k : Nat) (hk : k < 32) :
    (addrWord a c).getLsbD k =
      if k < 16 then a.getLsbD k else if k < 24 then c.data.getLsbD (k - 16) else c.code.getLsbD (k - 24) := by
  have ha : 16 ≤ k → a.getLsbD k = false := fun h => BitVec.getLsbD_of_ge _ _ h
  have hd : 24 ≤ k → c.data.getLsbD (k - 16) = false := fun h => BitVec.getLsbD_of_ge _ _ (by omega)
  by_cases h16 : k < 16
  · simp [addrWord, h16, hk, show k < 24 by omega]
  · by_cases h24 : k < 24
    · simp [addrWord, h16, h24, hk, ha (by omega)]
    · simp [addrWord, h16, h24, hk, ha (by omega), hd (by omega)]

@[simp] theorem reqWord_top (op : BitVec 3) (a : Addr) (v : Byte) : field 27 5 (reqWord op a v) = 0 := by
  ext i hi
  rw [field_getElem, reqWord_getLsbD _ _ _ _ (by omega), if_neg (by omega), if_neg (by omega)]
  simpa using BitVec.getLsbD_of_ge op _ (by omega)

@[simp] theorem reqWord_op (op : BitVec 3) (a : Addr) (v : Byte) : field 24 3 (reqWord op a v) = op := by
  ext i hi
  rw [field_getElem, reqWord_getLsbD _ _ _ _ (by omega), if_neg (by omega), if_neg (by omega),
    Nat.add_sub_cancel_left, BitVec.getLsbD_eq_getElem hi]

@[simp] theorem reqWord_addr (op : BitVec 3) (a : Addr) (v : Byte) : field 8 16 (reqWord op a v) = a := by
  ext i hi
  rw [field_getElem, reqWord_getLsbD _ _ _ _ (by omega), if_neg (by omega), if_pos (by omega),
    Nat.add_sub_cancel_left, BitVec.getLsbD_eq_getElem hi]

@[simp] theorem reqWord_data (op : BitVec 3) (a : Addr) (v : Byte) : field 0 8 (reqWord op a v) = v := by
  ext i hi
  rw [field_getElem, reqWord_getLsbD _ _ _ _ (by omega), if_pos (by omega), Nat.zero_add,
    BitVec.getLsbD_eq_getElem hi]

@[simp] theorem addrWord_top (a : Addr) (c : Capability) : field 26 6 (addrWord a c) = 0 := by
  ext i hi
  rw [field_getElem, addrWord_getLsbD _ _ _ (by omega), if_neg (by omega), if_neg (by omega)]
  simpa using BitVec.getLsbD_of_ge c.code _ (by omega)

@[simp] theorem addrWord_code (a : Addr) (c : Capability) : field 24 2 (addrWord a c) = c.code := by
  ext i hi
  rw [field_getElem, addrWord_getLsbD _ _ _ (by omega), if_neg (by omega), if_neg (by omega),
    Nat.add_sub_cancel_left, BitVec.getLsbD_eq_getElem hi]

@[simp] theorem addrWord_data (a : Addr) (c : Capability) : field 16 8 (addrWord a c) = c.data := by
  ext i hi
  rw [field_getElem, addrWord_getLsbD _ _ _ (by omega), if_neg (by omega), if_pos (by omega),
    Nat.add_sub_cancel_left, BitVec.getLsbD_eq_getElem hi]

@[simp] theorem addrWord_addr (a : Addr) (c : Capability) : field 0 16 (addrWord a c) = a := by
  ext i hi
  rw [field_getElem, addrWord_getLsbD _ _ _ (by omega), if_pos (by omega), Nat.zero_add,
    BitVec.getLsbD_eq_getElem hi]

/-- Masking the low `k` bits away rounds down to a multiple of `2 ^ k`. -/
theorem toNat_and_highMask (a : Addr) (k : Nat) :
    (a &&& BitVec.allOnes 16 <<< k).toNat = a.toNat / 2 ^ k * 2 ^ k := by
  have h : a &&& BitVec.allOnes 16 <<< k = a >>> k <<< k := by
    ext i hi
    by_cases hik : i < k
    · simp [hik]
    · have : k + (i - k) = i := by omega
      have ones : ∀ j (hj : j < 16), (65535#16)[j] = true := by decide
      simp [hik, this, hi, ones]
  rw [h, BitVec.toNat_shiftLeft, BitVec.toNat_ushiftRight, Nat.shiftRight_eq_div_pow, Nat.shiftLeft_eq]
  exact Nat.mod_eq_of_lt (lt_of_le_of_lt (Nat.div_mul_le_self _ _) a.isLt)

/-- An aligned block of `2 ^ k` addresses from `q * 2 ^ k` on, as a test under a mask (R74). -/
theorem and_highMask_eq_iff (a : Addr) (k q : Nat) (hq : q * 2 ^ k < 65536) :
    a &&& BitVec.allOnes 16 <<< k = BitVec.ofNat 16 (q * 2 ^ k) ↔
      q * 2 ^ k ≤ a.toNat ∧ a.toNat < q * 2 ^ k + 2 ^ k := by
  have hp : 0 < 2 ^ k := Nat.two_pow_pos k
  have hn := toNat_and_highMask a k
  have hm : (BitVec.ofNat 16 (q * 2 ^ k)).toNat = q * 2 ^ k := by
    rw [BitVec.toNat_ofNat]
    exact Nat.mod_eq_of_lt hq
  have key : a &&& BitVec.allOnes 16 <<< k = BitVec.ofNat 16 (q * 2 ^ k) ↔ a.toNat / 2 ^ k = q := by
    rw [← BitVec.toNat_inj, hn, hm]
    exact ⟨fun h => Nat.eq_of_mul_eq_mul_right hp h, fun h => by rw [h]⟩
  rw [key, Nat.div_eq_iff hp]
  omega

/-- The capability read back from a word that carries it. -/
@[simp] theorem decodeCapability_addrWord (a : Addr) (c : Capability) : decodeCapability (addrWord a c) = .ok c := by
  unfold decodeCapability
  rw [addrWord_top, addrWord_code, addrWord_data]
  cases c <;> rfl

/-- A row whose mask keeps the high bits claims one aligned block. -/
theorem claims_block {mtch mask : Addr} (k q : Nat) (hq : q * 2 ^ k < 65536) (hmask : mask = BitVec.allOnes 16 <<< k)
    (hmtch : mtch = BitVec.ofNat 16 (q * 2 ^ k)) (r : Range) (f : Addr → Capability → Instr) (a : Addr) :
    (AddrRow.mk mtch mask r f).claims a = decide (q * 2 ^ k ≤ a.toNat ∧ a.toNat < q * 2 ^ k + 2 ^ k) := by
  subst hmask hmtch
  unfold AddrRow.claims
  rw [Bool.eq_iff_iff]
  simp only [beq_iff_eq, decide_eq_true_eq]
  exact and_highMask_eq_iff a k q hq

/-- The 18 rows of R74 as bounds on the address, in the table's order. -/
theorem addrRows_claims (a : Addr) : addrRows.map (fun r => r.claims a) =
    [ decide (a.toNat < 0x2000), decide (0x2000 ≤ a.toNat ∧ a.toNat < 0x4000),
      decide (0x4000 ≤ a.toNat ∧ a.toNat < 0x4010), decide (0x4010 ≤ a.toNat ∧ a.toNat < 0x4014),
      decide (a.toNat = 0x4014), decide (a.toNat = 0x4015), decide (0x4016 ≤ a.toNat ∧ a.toNat < 0x4018),
      decide (0x4018 ≤ a.toNat ∧ a.toNat < 0x4020), decide (0x4020 ≤ a.toNat ∧ a.toNat < 0x4040),
      decide (0x4040 ≤ a.toNat ∧ a.toNat < 0x4080), decide (0x4080 ≤ a.toNat ∧ a.toNat < 0x4100),
      decide (0x4100 ≤ a.toNat ∧ a.toNat < 0x4200), decide (0x4200 ≤ a.toNat ∧ a.toNat < 0x4400),
      decide (0x4400 ≤ a.toNat ∧ a.toNat < 0x4800), decide (0x4800 ≤ a.toNat ∧ a.toNat < 0x5000),
      decide (0x5000 ≤ a.toNat ∧ a.toNat < 0x6000), decide (0x6000 ≤ a.toNat ∧ a.toNat < 0x8000),
      decide (0x8000 ≤ a.toNat) ] := by
  have hlt := a.isLt
  simp only [addrRows, List.cons_append, List.nil_append, List.map_cons, List.map_nil]
  rw [claims_block 13 0 (by decide) (by decide) (by decide), claims_block 13 1 (by decide) (by decide) (by decide),
    claims_block 4 0x400 (by decide) (by decide) (by decide), claims_block 2 0x1004 (by decide) (by decide) (by decide),
    claims_block 0 0x4014 (by decide) (by decide) (by decide), claims_block 0 0x4015 (by decide) (by decide) (by decide),
    claims_block 1 0x200B (by decide) (by decide) (by decide), claims_block 3 0x803 (by decide) (by decide) (by decide),
    claims_block 5 0x201 (by decide) (by decide) (by decide), claims_block 6 0x101 (by decide) (by decide) (by decide),
    claims_block 7 0x81 (by decide) (by decide) (by decide), claims_block 8 0x41 (by decide) (by decide) (by decide),
    claims_block 9 0x21 (by decide) (by decide) (by decide), claims_block 10 0x11 (by decide) (by decide) (by decide),
    claims_block 11 0x9 (by decide) (by decide) (by decide), claims_block 12 0x5 (by decide) (by decide) (by decide),
    claims_block 13 0x3 (by decide) (by decide) (by decide), claims_block 15 0x1 (by decide) (by decide) (by decide)]
  simp only [List.cons.injEq, decide_eq_decide, and_true]
  norm_num
  and_intros <;> omega

/-- A row of R78 claims the images of its register. -/
theorem claims_reg (n : Fin 8) (r : Range) (f : Addr → Capability → Instr) (a : Addr) :
    (AddrRow.mk (BitVec.ofNat 16 (0x2000 + n.val)) 0xE007 r f).claims a = decide (Addr.imageOfReg n.val a) := by
  have parts : a &&& (0xE007 : Addr) = (a &&& BitVec.allOnes 16 <<< 13) ||| (a &&& (7 : Addr)) := by
    rw [show (0xE007 : Addr) = BitVec.allOnes 16 <<< 13 ||| 7 from by decide, BitVec.and_or_distrib_left]
  have low : (a &&& (7 : Addr)).toNat = a.toNat % 8 := by
    rw [BitVec.toNat_and]
    exact Nat.and_two_pow_sub_one_eq_mod a.toNat 3
  have masked : (a &&& (0xE007 : Addr)).toNat = a.toNat / 2 ^ 13 * 2 ^ 13 + a.toNat % 8 := by
    rw [parts, BitVec.toNat_or, toNat_and_highMask a 13, low, Nat.mul_comm,
      ← Nat.two_pow_add_eq_or_of_lt (by omega)]
  have hn := n.isLt
  have hlt := a.isLt
  unfold AddrRow.claims
  rw [Bool.eq_iff_iff]
  simp only [beq_iff_eq, decide_eq_true_eq, ← BitVec.toNat_inj, masked, BitVec.toNat_ofNat, Addr.imageOfReg,
    Addr.between]
  norm_num
  omega

/-- The 8 rows of R78, in order. -/
theorem ppuRegRows_claims (a : Addr) : ppuRegRows.map (fun r => r.claims a) =
    [ decide (Addr.imageOfReg 0 a), decide (Addr.imageOfReg 1 a), decide (Addr.imageOfReg 2 a),
      decide (Addr.imageOfReg 3 a), decide (Addr.imageOfReg 4 a), decide (Addr.imageOfReg 5 a),
      decide (Addr.imageOfReg 6 a), decide (Addr.imageOfReg 7 a) ] :=
  congrArg₂ _ (claims_reg 0 _ _ a) <| congrArg₂ _ (claims_reg 1 _ _ a) <| congrArg₂ _ (claims_reg 2 _ _ a) <|
    congrArg₂ _ (claims_reg 3 _ _ a) <| congrArg₂ _ (claims_reg 4 _ _ a) <| congrArg₂ _ (claims_reg 5 _ _ a) <|
    congrArg₂ _ (claims_reg 6 _ _ a) <| congrArg₂ _ (claims_reg 7 _ _ a) rfl

/-- The address part of a word under a mask of address bits. -/
theorem addrWord_and (a : Addr) (c : Capability) (m : Addr) :
    addrWord a c &&& m.setWidth 32 = (a &&& m).setWidth 32 := by
  apply BitVec.eq_of_getLsbD_eq
  intro i hi
  rw [BitVec.getLsbD_and, addrWord_getLsbD _ _ _ hi]
  by_cases h : i < 16
  · simp [h, hi]
  · simp [h, hi, BitVec.getLsbD_of_ge m i (by omega), BitVec.getLsbD_of_ge a i (by omega)]

/-- The op code of a request word under the mask of the table. -/
theorem reqWord_and (op : BitVec 3) (a : Addr) (v : Byte) : reqWord op a v &&& (0x7000000 : PortWord) = op.setWidth 32 <<< 24 := by
  apply BitVec.eq_of_getLsbD_eq
  intro i hi
  have mask : ∀ j, j < 32 → (0x7000000 : PortWord).getLsbD j = decide (24 ≤ j ∧ j < 27) := by decide
  rw [BitVec.getLsbD_and, reqWord_getLsbD _ _ _ _ hi, mask i hi]
  by_cases h : 24 ≤ i
  · by_cases h' : i < 27
    · simp [h, h', hi, show ¬ i < 8 by omega, show ¬ i < 24 by omega]
    · simp [h, h', hi, show ¬ i < 24 by omega, BitVec.getLsbD_of_ge op (i - 24) (by omega)]
  · simp [h, hi, show i < 24 by omega]

end Sys2Proof
end

