-- ==== Sys2Proof/Laws/Memory.lean ====
section
/-! SUPPORT. The memory operations: a read after a write, every other address left alone, the canonical form kept. -/

namespace Sys2Proof.Machine

open Host (Cell)

theorem Memory.read_erase_same (b : Bank) (m : List Cell) (k : Nat) :
    Memory.read b (Memory.erase m k) k = b.unlisted k := by
  induction m with
  | nil => rfl
  | cons c m ih =>
    by_cases h : c.1 = k
    · simpa [Memory.erase, h] using ih
    · simpa [Memory.erase, Memory.read, h] using ih

theorem Memory.read_erase_other (b : Bank) (m : List Cell) {j k : Nat} (hjk : j ≠ k) :
    Memory.read b (Memory.erase m k) j = Memory.read b m j := by
  induction m with
  | nil => rfl
  | cons c m ih =>
    by_cases h : c.1 = k
    · have : c.1 ≠ j := fun e => hjk (e ▸ h)
      simpa [Memory.erase, Memory.read, h, this, hjk.symm] using ih
    · by_cases hj : c.1 = j
      · simp [Memory.erase, Memory.read, hj, hjk]
      · simpa [Memory.erase, Memory.read, h, hj] using ih

theorem Memory.read_insert_other (b : Bank) (m : List Cell) (v : Byte) {j k : Nat} (hjk : j ≠ k) :
    Memory.read b (Memory.insert m k v) j = Memory.read b m j := by
  induction m with
  | nil => simp [Memory.insert, Memory.read, hjk.symm]
  | cons c m ih =>
    by_cases h : k < c.1
    · simp [Memory.insert, Memory.read, h, hjk.symm]
    · simp [Memory.insert, Memory.read, h, ih]

theorem Memory.read_insert_same (b : Bank) (m : List Cell) (k : Nat) (v : Byte) (h : ∀ c ∈ m, c.1 ≠ k) :
    Memory.read b (Memory.insert m k v) k = v := by
  induction m with
  | nil => simp [Memory.insert, Memory.read]
  | cons c m ih =>
    have hc : c.1 ≠ k := h c (by simp)
    have ht := ih (fun d hd => h d (by simp [hd]))
    by_cases hk : k < c.1
    · simp [Memory.insert, Memory.read, hk]
    · simp [Memory.insert, Memory.read, hk, hc, ht]

theorem Memory.ne_of_mem_erase {m : List Cell} {k : Nat} {c : Cell} (h : c ∈ Memory.erase m k) : c.1 ≠ k := by
  simpa using (List.mem_filter.mp h).2

/-- A read after a write to the same address gives the byte written, whatever the memory. -/
@[simp] theorem Memory.read_write_same (b : Bank) (m : List Cell) (k : Nat) (v : Byte) :
    Memory.read b (Memory.write b m k v) k = v := by
  unfold Memory.write
  split
  · rename_i h
    rw [Memory.read_erase_same, h]
  · exact Memory.read_insert_same b _ k v fun c hc => Memory.ne_of_mem_erase hc

/-- A write leaves every other address alone. -/
theorem Memory.read_write_other (b : Bank) (m : List Cell) (v : Byte) {j k : Nat} (hjk : j ≠ k) :
    Memory.read b (Memory.write b m k v) j = Memory.read b m j := by
  unfold Memory.write
  split
  · exact Memory.read_erase_other b m hjk
  · rw [Memory.read_insert_other b _ v hjk, Memory.read_erase_other b m hjk]

theorem Memory.mem_insert {m : List Cell} {k : Nat} {v : Byte} {c : Cell} (h : c ∈ Memory.insert m k v) :
    c = (k, v) ∨ c ∈ m := by
  induction m with
  | nil => simpa [Memory.insert] using h
  | cons d m ih =>
    by_cases hk : k < d.1
    · simpa [Memory.insert, hk] using h
    · simp only [Memory.insert, hk, if_false, List.mem_cons] at h
      rcases h with rfl | h
      · simp
      · rcases ih h with h | h <;> simp [h]

theorem Memory.pairwise_insert {m : List Cell} {k : Nat} {v : Byte} (hm : m.Pairwise (fun x y => x.1 < y.1))
    (hk : ∀ c ∈ m, c.1 ≠ k) : (Memory.insert m k v).Pairwise (fun x y => x.1 < y.1) := by
  induction m with
  | nil => simp [Memory.insert]
  | cons d m ih =>
    obtain ⟨hd, hm'⟩ := List.pairwise_cons.mp hm
    by_cases h : k < d.1
    · simp only [Memory.insert, h, if_true]
      refine List.pairwise_cons.mpr ⟨fun c hc => ?_, hm⟩
      rcases List.mem_cons.mp hc with rfl | hc
      · exact h
      · exact h.trans (hd c hc)
    · simp only [Memory.insert, h, if_false]
      refine List.pairwise_cons.mpr ⟨fun c hc => ?_, ih hm' fun c hc => hk c (by simp [hc])⟩
      rcases Memory.mem_insert hc with rfl | hc
      · exact lt_of_le_of_ne (Nat.le_of_not_lt h) (hk d (by simp))
      · exact hd c hc

theorem Memory.wf_nil (b : Bank) : Memory.wf b [] := by simp [Memory.wf]

theorem Memory.wf_erase {b : Bank} {m : List Cell} (h : Memory.wf b m) (k : Nat) : Memory.wf b (Memory.erase m k) :=
  ⟨h.1.filter _, fun c hc => h.2 c (List.mem_filter.mp hc).1⟩

/-- A write to an address of the memory keeps the canonical form. -/
theorem Memory.wf_write {b : Bank} {m : List Cell} (h : Memory.wf b m) {k : Nat} (hk : k < b.size) (v : Byte) :
    Memory.wf b (Memory.write b m k v) := by
  have he := Memory.wf_erase h k
  unfold Memory.write
  split
  · exact he
  · rename_i hv
    refine ⟨Memory.pairwise_insert he.1 fun c hc => Memory.ne_of_mem_erase hc, fun c hc => ?_⟩
    rcases Memory.mem_insert hc with rfl | hc
    · exact ⟨hk, hv⟩
    · exact he.2 c hc

theorem Memory.le_of_mem_ofBytes {b : Bank} {bytes : List Byte} {k : Nat} {c : Cell}
    (h : c ∈ Memory.ofBytes b bytes k) : k ≤ c.1 ∧ c.1 < k + bytes.length ∧ c.2 ≠ b.unlisted c.1 := by
  induction bytes generalizing k with
  | nil => simp [Memory.ofBytes] at h
  | cons v vs ih =>
    have key : c ∈ Memory.ofBytes b vs (k + 1) → k ≤ c.1 ∧ c.1 < k + (v :: vs).length ∧ c.2 ≠ b.unlisted c.1 := by
      intro h'
      have := ih h'
      simp only [List.length_cons]
      exact ⟨by omega, by omega, this.2.2⟩
    by_cases hv : v = b.unlisted k
    · exact key (by simpa [Memory.ofBytes, hv] using h)
    · simp only [Memory.ofBytes, hv, if_false, List.mem_cons] at h
      rcases h with rfl | h
      · exact ⟨Nat.le_refl _, by simp, hv⟩
      · exact key h

/-- The memory built from a list of bytes is canonical. -/
theorem Memory.wf_ofBytes {b : Bank} {bytes : List Byte} (h : bytes.length ≤ b.size) :
    Memory.wf b (Memory.ofBytes b bytes 0) := by
  have sorted : ∀ (bs : List Byte) (k : Nat), (Memory.ofBytes b bs k).Pairwise (fun x y => x.1 < y.1) := by
    intro bs
    induction bs with
    | nil => simp [Memory.ofBytes]
    | cons v vs ih =>
      intro k
      by_cases hv : v = b.unlisted k
      · simpa [Memory.ofBytes, hv] using ih (k + 1)
      · simp only [Memory.ofBytes, hv, if_false]
        exact List.pairwise_cons.mpr ⟨fun c hc => (Memory.le_of_mem_ofBytes hc).1, ih (k + 1)⟩
  exact ⟨sorted bytes 0, fun c hc => by
    have := Memory.le_of_mem_ofBytes hc
    exact ⟨by omega, this.2.2⟩⟩

/-- Below the first address of a list of bytes nothing is listed. -/
theorem Memory.read_ofBytes_below (b : Bank) (bytes : List Byte) {j k : Nat} (hk : k < j) :
    Memory.read b (Memory.ofBytes b bytes j) k = b.unlisted k := by
  induction bytes generalizing j with
  | nil => rfl
  | cons w ws ih =>
    simp only [Memory.ofBytes]
    split
    · exact ih (by omega)
    · simp only [Memory.read]
      rw [if_neg (by omega)]
      exact ih (by omega)

/-- The memory built from a list of bytes holds each of them. -/
theorem Memory.read_ofBytes {b : Bank} {bytes : List Byte} {k : Nat} {v : Byte} (j : Nat) (h : bytes[k]? = some v) :
    Memory.read b (Memory.ofBytes b bytes j) (j + k) = v := by
  induction bytes generalizing j k with
  | nil => simp at h
  | cons w ws ih =>
    cases k with
    | zero =>
      have hv : w = v := by simpa using h
      subst hv
      simp only [Memory.ofBytes]
      split
      · rename_i hw
        rw [Memory.read_ofBytes_below _ _ (by omega)]
        exact hw.symm
      · simp [Memory.read]
    | succ k =>
      have ht := ih (j + 1) (k := k) (by simpa using h)
      rw [show j + 1 + k = j + (k + 1) by omega] at ht
      simp only [Memory.ofBytes]
      split
      · exact ht
      · simp only [Memory.read]
        rw [if_neg (by omega)]
        exact ht

/-- The power-on pattern of RAM has a non-zero byte (`10_state.md` R16). -/
theorem ramInit_not_all_zero : ∃ i, Config.ramInit i ≠ 0 := by
  refine ⟨Config.ramMark, fun h => ?_⟩
  have hlt := Config.ramMarkByte.isLt
  have : (BitVec.ofNat 8 (Config.ramMarkByte.val + 1)).toNat = 0 := by
    simpa [Config.ramInit] using congrArg BitVec.toNat h
  simp only [BitVec.toNat_ofNat] at this
  omega

end Sys2Proof.Machine
end

