-- ==== Sys2Proof/Laws/State.lean ====
section
/-! SUPPORT. One lemma per field per update of the state, each true by rfl. -/

namespace Sys2Proof.Machine

variable (s : State)

@[simp] theorem State.setExt_ext (x : Byte) : (s.setExt x).ext = x := rfl
@[simp] theorem State.setExt_int (x : Byte) : (s.setExt x).int = s.int := rfl
@[simp] theorem State.setExt_ram (x : Byte) : (s.setExt x).ram = s.ram := rfl
@[simp] theorem State.setExt_tram (x : Byte) : (s.setExt x).tram = s.tram := rfl
@[simp] theorem State.setExt_cart (x : Byte) : (s.setExt x).cart = s.cart := rfl
@[simp] theorem State.setExt_ppu (x : Byte) : (s.setExt x).ppu = s.ppu := rfl
@[simp] theorem State.setExt_apu (x : Byte) : (s.setExt x).apu = s.apu := rfl
@[simp] theorem State.setExt_dma (x : Byte) : (s.setExt x).dma = s.dma := rfl
@[simp] theorem State.setExt_ctrl (x : Byte) : (s.setExt x).ctrl = s.ctrl := rfl
@[simp] theorem State.setExt_masterCycle (x : Byte) : (s.setExt x).masterCycle = s.masterCycle := rfl
@[simp] theorem State.setExt_timer (x : Byte) : (s.setExt x).timer = s.timer := rfl
@[simp] theorem State.setExt_dwReadMode (x : Byte) : (s.setExt x).dwReadMode = s.dwReadMode := rfl
@[simp] theorem State.setExt_observer (x : Byte) : (s.setExt x).observer = s.observer := rfl
@[simp] theorem State.setExt_resp (x : Byte) : (s.setExt x).resp = s.resp := rfl
@[simp] theorem State.setExt_inbox (x : Byte) : (s.setExt x).inbox = s.inbox := rfl
@[simp] theorem State.setExt_mid (x : Byte) : (s.setExt x).mid = s.mid := rfl

@[simp] theorem State.setInt_ext (x : Byte) : (s.setInt x).ext = s.ext := rfl
@[simp] theorem State.setInt_int (x : Byte) : (s.setInt x).int = x := rfl
@[simp] theorem State.setInt_ram (x : Byte) : (s.setInt x).ram = s.ram := rfl
@[simp] theorem State.setInt_tram (x : Byte) : (s.setInt x).tram = s.tram := rfl
@[simp] theorem State.setInt_cart (x : Byte) : (s.setInt x).cart = s.cart := rfl
@[simp] theorem State.setInt_ppu (x : Byte) : (s.setInt x).ppu = s.ppu := rfl
@[simp] theorem State.setInt_apu (x : Byte) : (s.setInt x).apu = s.apu := rfl
@[simp] theorem State.setInt_dma (x : Byte) : (s.setInt x).dma = s.dma := rfl
@[simp] theorem State.setInt_ctrl (x : Byte) : (s.setInt x).ctrl = s.ctrl := rfl
@[simp] theorem State.setInt_masterCycle (x : Byte) : (s.setInt x).masterCycle = s.masterCycle := rfl
@[simp] theorem State.setInt_timer (x : Byte) : (s.setInt x).timer = s.timer := rfl
@[simp] theorem State.setInt_dwReadMode (x : Byte) : (s.setInt x).dwReadMode = s.dwReadMode := rfl
@[simp] theorem State.setInt_observer (x : Byte) : (s.setInt x).observer = s.observer := rfl
@[simp] theorem State.setInt_resp (x : Byte) : (s.setInt x).resp = s.resp := rfl
@[simp] theorem State.setInt_inbox (x : Byte) : (s.setInt x).inbox = s.inbox := rfl
@[simp] theorem State.setInt_mid (x : Byte) : (s.setInt x).mid = s.mid := rfl

@[simp] theorem State.setRam_ext (x : List Host.Cell) : (s.setRam x).ext = s.ext := rfl
@[simp] theorem State.setRam_int (x : List Host.Cell) : (s.setRam x).int = s.int := rfl
@[simp] theorem State.setRam_ram (x : List Host.Cell) : (s.setRam x).ram = x := rfl
@[simp] theorem State.setRam_tram (x : List Host.Cell) : (s.setRam x).tram = s.tram := rfl
@[simp] theorem State.setRam_cart (x : List Host.Cell) : (s.setRam x).cart = s.cart := rfl
@[simp] theorem State.setRam_ppu (x : List Host.Cell) : (s.setRam x).ppu = s.ppu := rfl
@[simp] theorem State.setRam_apu (x : List Host.Cell) : (s.setRam x).apu = s.apu := rfl
@[simp] theorem State.setRam_dma (x : List Host.Cell) : (s.setRam x).dma = s.dma := rfl
@[simp] theorem State.setRam_ctrl (x : List Host.Cell) : (s.setRam x).ctrl = s.ctrl := rfl
@[simp] theorem State.setRam_masterCycle (x : List Host.Cell) : (s.setRam x).masterCycle = s.masterCycle := rfl
@[simp] theorem State.setRam_timer (x : List Host.Cell) : (s.setRam x).timer = s.timer := rfl
@[simp] theorem State.setRam_dwReadMode (x : List Host.Cell) : (s.setRam x).dwReadMode = s.dwReadMode := rfl
@[simp] theorem State.setRam_observer (x : List Host.Cell) : (s.setRam x).observer = s.observer := rfl
@[simp] theorem State.setRam_resp (x : List Host.Cell) : (s.setRam x).resp = s.resp := rfl
@[simp] theorem State.setRam_inbox (x : List Host.Cell) : (s.setRam x).inbox = s.inbox := rfl
@[simp] theorem State.setRam_mid (x : List Host.Cell) : (s.setRam x).mid = s.mid := rfl

@[simp] theorem State.setTram_ext (x : Option (List Host.Cell)) : (s.setTram x).ext = s.ext := rfl
@[simp] theorem State.setTram_int (x : Option (List Host.Cell)) : (s.setTram x).int = s.int := rfl
@[simp] theorem State.setTram_ram (x : Option (List Host.Cell)) : (s.setTram x).ram = s.ram := rfl
@[simp] theorem State.setTram_tram (x : Option (List Host.Cell)) : (s.setTram x).tram = x := rfl
@[simp] theorem State.setTram_cart (x : Option (List Host.Cell)) : (s.setTram x).cart = s.cart := rfl
@[simp] theorem State.setTram_ppu (x : Option (List Host.Cell)) : (s.setTram x).ppu = s.ppu := rfl
@[simp] theorem State.setTram_apu (x : Option (List Host.Cell)) : (s.setTram x).apu = s.apu := rfl
@[simp] theorem State.setTram_dma (x : Option (List Host.Cell)) : (s.setTram x).dma = s.dma := rfl
@[simp] theorem State.setTram_ctrl (x : Option (List Host.Cell)) : (s.setTram x).ctrl = s.ctrl := rfl
@[simp] theorem State.setTram_masterCycle (x : Option (List Host.Cell)) : (s.setTram x).masterCycle = s.masterCycle := rfl
@[simp] theorem State.setTram_timer (x : Option (List Host.Cell)) : (s.setTram x).timer = s.timer := rfl
@[simp] theorem State.setTram_dwReadMode (x : Option (List Host.Cell)) : (s.setTram x).dwReadMode = s.dwReadMode := rfl
@[simp] theorem State.setTram_observer (x : Option (List Host.Cell)) : (s.setTram x).observer = s.observer := rfl
@[simp] theorem State.setTram_resp (x : Option (List Host.Cell)) : (s.setTram x).resp = s.resp := rfl
@[simp] theorem State.setTram_inbox (x : Option (List Host.Cell)) : (s.setTram x).inbox = s.inbox := rfl
@[simp] theorem State.setTram_mid (x : Option (List Host.Cell)) : (s.setTram x).mid = s.mid := rfl

@[simp] theorem State.setCart_ext (x : Option CartState) : (s.setCart x).ext = s.ext := rfl
@[simp] theorem State.setCart_int (x : Option CartState) : (s.setCart x).int = s.int := rfl
@[simp] theorem State.setCart_ram (x : Option CartState) : (s.setCart x).ram = s.ram := rfl
@[simp] theorem State.setCart_tram (x : Option CartState) : (s.setCart x).tram = s.tram := rfl
@[simp] theorem State.setCart_cart (x : Option CartState) : (s.setCart x).cart = x := rfl
@[simp] theorem State.setCart_ppu (x : Option CartState) : (s.setCart x).ppu = s.ppu := rfl
@[simp] theorem State.setCart_apu (x : Option CartState) : (s.setCart x).apu = s.apu := rfl
@[simp] theorem State.setCart_dma (x : Option CartState) : (s.setCart x).dma = s.dma := rfl
@[simp] theorem State.setCart_ctrl (x : Option CartState) : (s.setCart x).ctrl = s.ctrl := rfl
@[simp] theorem State.setCart_masterCycle (x : Option CartState) : (s.setCart x).masterCycle = s.masterCycle := rfl
@[simp] theorem State.setCart_timer (x : Option CartState) : (s.setCart x).timer = s.timer := rfl
@[simp] theorem State.setCart_dwReadMode (x : Option CartState) : (s.setCart x).dwReadMode = s.dwReadMode := rfl
@[simp] theorem State.setCart_observer (x : Option CartState) : (s.setCart x).observer = s.observer := rfl
@[simp] theorem State.setCart_resp (x : Option CartState) : (s.setCart x).resp = s.resp := rfl
@[simp] theorem State.setCart_inbox (x : Option CartState) : (s.setCart x).inbox = s.inbox := rfl
@[simp] theorem State.setCart_mid (x : Option CartState) : (s.setCart x).mid = s.mid := rfl

@[simp] theorem State.setPpu_ext (x : Ppu) : (s.setPpu x).ext = s.ext := rfl
@[simp] theorem State.setPpu_int (x : Ppu) : (s.setPpu x).int = s.int := rfl
@[simp] theorem State.setPpu_ram (x : Ppu) : (s.setPpu x).ram = s.ram := rfl
@[simp] theorem State.setPpu_tram (x : Ppu) : (s.setPpu x).tram = s.tram := rfl
@[simp] theorem State.setPpu_cart (x : Ppu) : (s.setPpu x).cart = s.cart := rfl
@[simp] theorem State.setPpu_ppu (x : Ppu) : (s.setPpu x).ppu = x := rfl
@[simp] theorem State.setPpu_apu (x : Ppu) : (s.setPpu x).apu = s.apu := rfl
@[simp] theorem State.setPpu_dma (x : Ppu) : (s.setPpu x).dma = s.dma := rfl
@[simp] theorem State.setPpu_ctrl (x : Ppu) : (s.setPpu x).ctrl = s.ctrl := rfl
@[simp] theorem State.setPpu_masterCycle (x : Ppu) : (s.setPpu x).masterCycle = s.masterCycle := rfl
@[simp] theorem State.setPpu_timer (x : Ppu) : (s.setPpu x).timer = s.timer := rfl
@[simp] theorem State.setPpu_dwReadMode (x : Ppu) : (s.setPpu x).dwReadMode = s.dwReadMode := rfl
@[simp] theorem State.setPpu_observer (x : Ppu) : (s.setPpu x).observer = s.observer := rfl
@[simp] theorem State.setPpu_resp (x : Ppu) : (s.setPpu x).resp = s.resp := rfl
@[simp] theorem State.setPpu_inbox (x : Ppu) : (s.setPpu x).inbox = s.inbox := rfl
@[simp] theorem State.setPpu_mid (x : Ppu) : (s.setPpu x).mid = s.mid := rfl

@[simp] theorem State.setApu_ext (x : ApuState) : (s.setApu x).ext = s.ext := rfl
@[simp] theorem State.setApu_int (x : ApuState) : (s.setApu x).int = s.int := rfl
@[simp] theorem State.setApu_ram (x : ApuState) : (s.setApu x).ram = s.ram := rfl
@[simp] theorem State.setApu_tram (x : ApuState) : (s.setApu x).tram = s.tram := rfl
@[simp] theorem State.setApu_cart (x : ApuState) : (s.setApu x).cart = s.cart := rfl
@[simp] theorem State.setApu_ppu (x : ApuState) : (s.setApu x).ppu = s.ppu := rfl
@[simp] theorem State.setApu_apu (x : ApuState) : (s.setApu x).apu = x := rfl
@[simp] theorem State.setApu_dma (x : ApuState) : (s.setApu x).dma = s.dma := rfl
@[simp] theorem State.setApu_ctrl (x : ApuState) : (s.setApu x).ctrl = s.ctrl := rfl
@[simp] theorem State.setApu_masterCycle (x : ApuState) : (s.setApu x).masterCycle = s.masterCycle := rfl
@[simp] theorem State.setApu_timer (x : ApuState) : (s.setApu x).timer = s.timer := rfl
@[simp] theorem State.setApu_dwReadMode (x : ApuState) : (s.setApu x).dwReadMode = s.dwReadMode := rfl
@[simp] theorem State.setApu_observer (x : ApuState) : (s.setApu x).observer = s.observer := rfl
@[simp] theorem State.setApu_resp (x : ApuState) : (s.setApu x).resp = s.resp := rfl
@[simp] theorem State.setApu_inbox (x : ApuState) : (s.setApu x).inbox = s.inbox := rfl
@[simp] theorem State.setApu_mid (x : ApuState) : (s.setApu x).mid = s.mid := rfl

@[simp] theorem State.setDma_ext (x : DmaState) : (s.setDma x).ext = s.ext := rfl
@[simp] theorem State.setDma_int (x : DmaState) : (s.setDma x).int = s.int := rfl
@[simp] theorem State.setDma_ram (x : DmaState) : (s.setDma x).ram = s.ram := rfl
@[simp] theorem State.setDma_tram (x : DmaState) : (s.setDma x).tram = s.tram := rfl
@[simp] theorem State.setDma_cart (x : DmaState) : (s.setDma x).cart = s.cart := rfl
@[simp] theorem State.setDma_ppu (x : DmaState) : (s.setDma x).ppu = s.ppu := rfl
@[simp] theorem State.setDma_apu (x : DmaState) : (s.setDma x).apu = s.apu := rfl
@[simp] theorem State.setDma_dma (x : DmaState) : (s.setDma x).dma = x := rfl
@[simp] theorem State.setDma_ctrl (x : DmaState) : (s.setDma x).ctrl = s.ctrl := rfl
@[simp] theorem State.setDma_masterCycle (x : DmaState) : (s.setDma x).masterCycle = s.masterCycle := rfl
@[simp] theorem State.setDma_timer (x : DmaState) : (s.setDma x).timer = s.timer := rfl
@[simp] theorem State.setDma_dwReadMode (x : DmaState) : (s.setDma x).dwReadMode = s.dwReadMode := rfl
@[simp] theorem State.setDma_observer (x : DmaState) : (s.setDma x).observer = s.observer := rfl
@[simp] theorem State.setDma_resp (x : DmaState) : (s.setDma x).resp = s.resp := rfl
@[simp] theorem State.setDma_inbox (x : DmaState) : (s.setDma x).inbox = s.inbox := rfl
@[simp] theorem State.setDma_mid (x : DmaState) : (s.setDma x).mid = s.mid := rfl

@[simp] theorem State.setCtrl_ext (x : CtrlState) : (s.setCtrl x).ext = s.ext := rfl
@[simp] theorem State.setCtrl_int (x : CtrlState) : (s.setCtrl x).int = s.int := rfl
@[simp] theorem State.setCtrl_ram (x : CtrlState) : (s.setCtrl x).ram = s.ram := rfl
@[simp] theorem State.setCtrl_tram (x : CtrlState) : (s.setCtrl x).tram = s.tram := rfl
@[simp] theorem State.setCtrl_cart (x : CtrlState) : (s.setCtrl x).cart = s.cart := rfl
@[simp] theorem State.setCtrl_ppu (x : CtrlState) : (s.setCtrl x).ppu = s.ppu := rfl
@[simp] theorem State.setCtrl_apu (x : CtrlState) : (s.setCtrl x).apu = s.apu := rfl
@[simp] theorem State.setCtrl_dma (x : CtrlState) : (s.setCtrl x).dma = s.dma := rfl
@[simp] theorem State.setCtrl_ctrl (x : CtrlState) : (s.setCtrl x).ctrl = x := rfl
@[simp] theorem State.setCtrl_masterCycle (x : CtrlState) : (s.setCtrl x).masterCycle = s.masterCycle := rfl
@[simp] theorem State.setCtrl_timer (x : CtrlState) : (s.setCtrl x).timer = s.timer := rfl
@[simp] theorem State.setCtrl_dwReadMode (x : CtrlState) : (s.setCtrl x).dwReadMode = s.dwReadMode := rfl
@[simp] theorem State.setCtrl_observer (x : CtrlState) : (s.setCtrl x).observer = s.observer := rfl
@[simp] theorem State.setCtrl_resp (x : CtrlState) : (s.setCtrl x).resp = s.resp := rfl
@[simp] theorem State.setCtrl_inbox (x : CtrlState) : (s.setCtrl x).inbox = s.inbox := rfl
@[simp] theorem State.setCtrl_mid (x : CtrlState) : (s.setCtrl x).mid = s.mid := rfl

@[simp] theorem State.setMasterCycle_ext (x : Cycle) : (s.setMasterCycle x).ext = s.ext := rfl
@[simp] theorem State.setMasterCycle_int (x : Cycle) : (s.setMasterCycle x).int = s.int := rfl
@[simp] theorem State.setMasterCycle_ram (x : Cycle) : (s.setMasterCycle x).ram = s.ram := rfl
@[simp] theorem State.setMasterCycle_tram (x : Cycle) : (s.setMasterCycle x).tram = s.tram := rfl
@[simp] theorem State.setMasterCycle_cart (x : Cycle) : (s.setMasterCycle x).cart = s.cart := rfl
@[simp] theorem State.setMasterCycle_ppu (x : Cycle) : (s.setMasterCycle x).ppu = s.ppu := rfl
@[simp] theorem State.setMasterCycle_apu (x : Cycle) : (s.setMasterCycle x).apu = s.apu := rfl
@[simp] theorem State.setMasterCycle_dma (x : Cycle) : (s.setMasterCycle x).dma = s.dma := rfl
@[simp] theorem State.setMasterCycle_ctrl (x : Cycle) : (s.setMasterCycle x).ctrl = s.ctrl := rfl
@[simp] theorem State.setMasterCycle_masterCycle (x : Cycle) : (s.setMasterCycle x).masterCycle = x := rfl
@[simp] theorem State.setMasterCycle_timer (x : Cycle) : (s.setMasterCycle x).timer = s.timer := rfl
@[simp] theorem State.setMasterCycle_dwReadMode (x : Cycle) : (s.setMasterCycle x).dwReadMode = s.dwReadMode := rfl
@[simp] theorem State.setMasterCycle_observer (x : Cycle) : (s.setMasterCycle x).observer = s.observer := rfl
@[simp] theorem State.setMasterCycle_resp (x : Cycle) : (s.setMasterCycle x).resp = s.resp := rfl
@[simp] theorem State.setMasterCycle_inbox (x : Cycle) : (s.setMasterCycle x).inbox = s.inbox := rfl
@[simp] theorem State.setMasterCycle_mid (x : Cycle) : (s.setMasterCycle x).mid = s.mid := rfl

@[simp] theorem State.setTimer_ext (x : Timer) : (s.setTimer x).ext = s.ext := rfl
@[simp] theorem State.setTimer_int (x : Timer) : (s.setTimer x).int = s.int := rfl
@[simp] theorem State.setTimer_ram (x : Timer) : (s.setTimer x).ram = s.ram := rfl
@[simp] theorem State.setTimer_tram (x : Timer) : (s.setTimer x).tram = s.tram := rfl
@[simp] theorem State.setTimer_cart (x : Timer) : (s.setTimer x).cart = s.cart := rfl
@[simp] theorem State.setTimer_ppu (x : Timer) : (s.setTimer x).ppu = s.ppu := rfl
@[simp] theorem State.setTimer_apu (x : Timer) : (s.setTimer x).apu = s.apu := rfl
@[simp] theorem State.setTimer_dma (x : Timer) : (s.setTimer x).dma = s.dma := rfl
@[simp] theorem State.setTimer_ctrl (x : Timer) : (s.setTimer x).ctrl = s.ctrl := rfl
@[simp] theorem State.setTimer_masterCycle (x : Timer) : (s.setTimer x).masterCycle = s.masterCycle := rfl
@[simp] theorem State.setTimer_timer (x : Timer) : (s.setTimer x).timer = x := rfl
@[simp] theorem State.setTimer_dwReadMode (x : Timer) : (s.setTimer x).dwReadMode = s.dwReadMode := rfl
@[simp] theorem State.setTimer_observer (x : Timer) : (s.setTimer x).observer = s.observer := rfl
@[simp] theorem State.setTimer_resp (x : Timer) : (s.setTimer x).resp = s.resp := rfl
@[simp] theorem State.setTimer_inbox (x : Timer) : (s.setTimer x).inbox = s.inbox := rfl
@[simp] theorem State.setTimer_mid (x : Timer) : (s.setTimer x).mid = s.mid := rfl

@[simp] theorem State.setDwReadMode_ext (x : DwReadMode) : (s.setDwReadMode x).ext = s.ext := rfl
@[simp] theorem State.setDwReadMode_int (x : DwReadMode) : (s.setDwReadMode x).int = s.int := rfl
@[simp] theorem State.setDwReadMode_ram (x : DwReadMode) : (s.setDwReadMode x).ram = s.ram := rfl
@[simp] theorem State.setDwReadMode_tram (x : DwReadMode) : (s.setDwReadMode x).tram = s.tram := rfl
@[simp] theorem State.setDwReadMode_cart (x : DwReadMode) : (s.setDwReadMode x).cart = s.cart := rfl
@[simp] theorem State.setDwReadMode_ppu (x : DwReadMode) : (s.setDwReadMode x).ppu = s.ppu := rfl
@[simp] theorem State.setDwReadMode_apu (x : DwReadMode) : (s.setDwReadMode x).apu = s.apu := rfl
@[simp] theorem State.setDwReadMode_dma (x : DwReadMode) : (s.setDwReadMode x).dma = s.dma := rfl
@[simp] theorem State.setDwReadMode_ctrl (x : DwReadMode) : (s.setDwReadMode x).ctrl = s.ctrl := rfl
@[simp] theorem State.setDwReadMode_masterCycle (x : DwReadMode) : (s.setDwReadMode x).masterCycle = s.masterCycle := rfl
@[simp] theorem State.setDwReadMode_timer (x : DwReadMode) : (s.setDwReadMode x).timer = s.timer := rfl
@[simp] theorem State.setDwReadMode_dwReadMode (x : DwReadMode) : (s.setDwReadMode x).dwReadMode = x := rfl
@[simp] theorem State.setDwReadMode_observer (x : DwReadMode) : (s.setDwReadMode x).observer = s.observer := rfl
@[simp] theorem State.setDwReadMode_resp (x : DwReadMode) : (s.setDwReadMode x).resp = s.resp := rfl
@[simp] theorem State.setDwReadMode_inbox (x : DwReadMode) : (s.setDwReadMode x).inbox = s.inbox := rfl
@[simp] theorem State.setDwReadMode_mid (x : DwReadMode) : (s.setDwReadMode x).mid = s.mid := rfl

@[simp] theorem State.setObserver_ext (x : Option (List ObserverCall)) : (s.setObserver x).ext = s.ext := rfl
@[simp] theorem State.setObserver_int (x : Option (List ObserverCall)) : (s.setObserver x).int = s.int := rfl
@[simp] theorem State.setObserver_ram (x : Option (List ObserverCall)) : (s.setObserver x).ram = s.ram := rfl
@[simp] theorem State.setObserver_tram (x : Option (List ObserverCall)) : (s.setObserver x).tram = s.tram := rfl
@[simp] theorem State.setObserver_cart (x : Option (List ObserverCall)) : (s.setObserver x).cart = s.cart := rfl
@[simp] theorem State.setObserver_ppu (x : Option (List ObserverCall)) : (s.setObserver x).ppu = s.ppu := rfl
@[simp] theorem State.setObserver_apu (x : Option (List ObserverCall)) : (s.setObserver x).apu = s.apu := rfl
@[simp] theorem State.setObserver_dma (x : Option (List ObserverCall)) : (s.setObserver x).dma = s.dma := rfl
@[simp] theorem State.setObserver_ctrl (x : Option (List ObserverCall)) : (s.setObserver x).ctrl = s.ctrl := rfl
@[simp] theorem State.setObserver_masterCycle (x : Option (List ObserverCall)) : (s.setObserver x).masterCycle = s.masterCycle := rfl
@[simp] theorem State.setObserver_timer (x : Option (List ObserverCall)) : (s.setObserver x).timer = s.timer := rfl
@[simp] theorem State.setObserver_dwReadMode (x : Option (List ObserverCall)) : (s.setObserver x).dwReadMode = s.dwReadMode := rfl
@[simp] theorem State.setObserver_observer (x : Option (List ObserverCall)) : (s.setObserver x).observer = x := rfl
@[simp] theorem State.setObserver_resp (x : Option (List ObserverCall)) : (s.setObserver x).resp = s.resp := rfl
@[simp] theorem State.setObserver_inbox (x : Option (List ObserverCall)) : (s.setObserver x).inbox = s.inbox := rfl
@[simp] theorem State.setObserver_mid (x : Option (List ObserverCall)) : (s.setObserver x).mid = s.mid := rfl

@[simp] theorem State.setResp_ext (x : Response) : (s.setResp x).ext = s.ext := rfl
@[simp] theorem State.setResp_int (x : Response) : (s.setResp x).int = s.int := rfl
@[simp] theorem State.setResp_ram (x : Response) : (s.setResp x).ram = s.ram := rfl
@[simp] theorem State.setResp_tram (x : Response) : (s.setResp x).tram = s.tram := rfl
@[simp] theorem State.setResp_cart (x : Response) : (s.setResp x).cart = s.cart := rfl
@[simp] theorem State.setResp_ppu (x : Response) : (s.setResp x).ppu = s.ppu := rfl
@[simp] theorem State.setResp_apu (x : Response) : (s.setResp x).apu = s.apu := rfl
@[simp] theorem State.setResp_dma (x : Response) : (s.setResp x).dma = s.dma := rfl
@[simp] theorem State.setResp_ctrl (x : Response) : (s.setResp x).ctrl = s.ctrl := rfl
@[simp] theorem State.setResp_masterCycle (x : Response) : (s.setResp x).masterCycle = s.masterCycle := rfl
@[simp] theorem State.setResp_timer (x : Response) : (s.setResp x).timer = s.timer := rfl
@[simp] theorem State.setResp_dwReadMode (x : Response) : (s.setResp x).dwReadMode = s.dwReadMode := rfl
@[simp] theorem State.setResp_observer (x : Response) : (s.setResp x).observer = s.observer := rfl
@[simp] theorem State.setResp_resp (x : Response) : (s.setResp x).resp = x := rfl
@[simp] theorem State.setResp_inbox (x : Response) : (s.setResp x).inbox = s.inbox := rfl
@[simp] theorem State.setResp_mid (x : Response) : (s.setResp x).mid = s.mid := rfl

@[simp] theorem State.setInbox_ext (x : List Input) : (s.setInbox x).ext = s.ext := rfl
@[simp] theorem State.setInbox_int (x : List Input) : (s.setInbox x).int = s.int := rfl
@[simp] theorem State.setInbox_ram (x : List Input) : (s.setInbox x).ram = s.ram := rfl
@[simp] theorem State.setInbox_tram (x : List Input) : (s.setInbox x).tram = s.tram := rfl
@[simp] theorem State.setInbox_cart (x : List Input) : (s.setInbox x).cart = s.cart := rfl
@[simp] theorem State.setInbox_ppu (x : List Input) : (s.setInbox x).ppu = s.ppu := rfl
@[simp] theorem State.setInbox_apu (x : List Input) : (s.setInbox x).apu = s.apu := rfl
@[simp] theorem State.setInbox_dma (x : List Input) : (s.setInbox x).dma = s.dma := rfl
@[simp] theorem State.setInbox_ctrl (x : List Input) : (s.setInbox x).ctrl = s.ctrl := rfl
@[simp] theorem State.setInbox_masterCycle (x : List Input) : (s.setInbox x).masterCycle = s.masterCycle := rfl
@[simp] theorem State.setInbox_timer (x : List Input) : (s.setInbox x).timer = s.timer := rfl
@[simp] theorem State.setInbox_dwReadMode (x : List Input) : (s.setInbox x).dwReadMode = s.dwReadMode := rfl
@[simp] theorem State.setInbox_observer (x : List Input) : (s.setInbox x).observer = s.observer := rfl
@[simp] theorem State.setInbox_resp (x : List Input) : (s.setInbox x).resp = s.resp := rfl
@[simp] theorem State.setInbox_inbox (x : List Input) : (s.setInbox x).inbox = x := rfl
@[simp] theorem State.setInbox_mid (x : List Input) : (s.setInbox x).mid = s.mid := rfl

@[simp] theorem State.setMid_ext (x : List Event) : (s.setMid x).ext = s.ext := rfl
@[simp] theorem State.setMid_int (x : List Event) : (s.setMid x).int = s.int := rfl
@[simp] theorem State.setMid_ram (x : List Event) : (s.setMid x).ram = s.ram := rfl
@[simp] theorem State.setMid_tram (x : List Event) : (s.setMid x).tram = s.tram := rfl
@[simp] theorem State.setMid_cart (x : List Event) : (s.setMid x).cart = s.cart := rfl
@[simp] theorem State.setMid_ppu (x : List Event) : (s.setMid x).ppu = s.ppu := rfl
@[simp] theorem State.setMid_apu (x : List Event) : (s.setMid x).apu = s.apu := rfl
@[simp] theorem State.setMid_dma (x : List Event) : (s.setMid x).dma = s.dma := rfl
@[simp] theorem State.setMid_ctrl (x : List Event) : (s.setMid x).ctrl = s.ctrl := rfl
@[simp] theorem State.setMid_masterCycle (x : List Event) : (s.setMid x).masterCycle = s.masterCycle := rfl
@[simp] theorem State.setMid_timer (x : List Event) : (s.setMid x).timer = s.timer := rfl
@[simp] theorem State.setMid_dwReadMode (x : List Event) : (s.setMid x).dwReadMode = s.dwReadMode := rfl
@[simp] theorem State.setMid_observer (x : List Event) : (s.setMid x).observer = s.observer := rfl
@[simp] theorem State.setMid_resp (x : List Event) : (s.setMid x).resp = s.resp := rfl
@[simp] theorem State.setMid_inbox (x : List Event) : (s.setMid x).inbox = s.inbox := rfl
@[simp] theorem State.setMid_mid (x : List Event) : (s.setMid x).mid = x := rfl

end Sys2Proof.Machine
end

