-- ==== Sys2Proof/Laws/Ops.lean ====
section
/-! SUPPORT. For each shared operation, once, everything it can do: the local addresses as arithmetic, the handlers,
the environment's moves. -/

namespace Sys2Proof.Machine

/-! ### Local addresses -/

theorem ramOffset_eq (a : Addr) : ramOffset a = a.toNat % 2048 := by
  unfold ramOffset
  rw [BitVec.toNat_and]
  exact Nat.and_two_pow_sub_one_eq_mod a.toNat 11

theorem ramOffset_lt (a : Addr) : ramOffset a < Bank.size .ram := by
  rw [ramOffset_eq]
  exact Nat.mod_lt _ (by decide)

theorem tramOffset_eq (a : Addr) : tramOffset a = a.toNat % 0x8000 := by
  unfold tramOffset
  rw [BitVec.toNat_and]
  exact Nat.and_two_pow_sub_one_eq_mod a.toNat 15

theorem tramOffset_lt (a : Addr) : tramOffset a < Bank.size .tram := by
  rw [tramOffset_eq]
  exact Nat.mod_lt _ (by decide)

theorem ppuReg_toNat (a : Addr) : (ppuReg a).toNat = a.toNat % 8 := by
  unfold ppuReg
  rw [BitVec.toNat_setWidth, BitVec.toNat_and]
  have h : a.toNat &&& 2 ^ 3 - 1 = a.toNat % 8 := Nat.and_two_pow_sub_one_eq_mod a.toNat 3
  change (a.toNat &&& 2 ^ 3 - 1) % 2 ^ 3 = _
  omega

/-! ### Handlers -/

/-- Everything a handler's read can do to the state: nothing, the status read, or a move of its own collaborator. -/
theorem hRead_cases (h : Handler) (a : Addr) (s : State) :
    (hRead h a s).2 = s ∨
    (h = .ppu ∧ ppuReg a = 2 ∧ (hRead h a s).2 = s.setPpu (statusRead s.masterCycle s.ppu)) ∨
    (∃ r, (hRead h a s).2 = s.setPpu { s.ppu with rest := r }) ∨
    (∃ x, (hRead h a s).2 = s.setApu x) ∨
    (∃ x, (hRead h a s).2 = s.setDma x) ∨
    (∃ x, (hRead h a s).2 = s.setCtrl x) ∨
    (∃ c x, s.cart = some c ∧ (hRead h a s).2 = s.setCart (some x)) := by
  cases h with
  | ram => exact .inl rfl
  | openBus => exact .inl rfl
  | apu => exact .inr <| .inr <| .inr <| .inl ⟨_, rfl⟩
  | oamDma => exact .inr <| .inr <| .inr <| .inr <| .inl ⟨_, rfl⟩
  | controller => exact .inr <| .inr <| .inr <| .inr <| .inr <| .inl ⟨_, rfl⟩
  | ppu =>
    by_cases hr : ppuReg a = 2
    · exact .inr <| .inl ⟨rfl, hr, by simp only [hRead, ppuRead, if_pos hr]⟩
    · exact .inr <| .inr <| .inl
        ⟨(Config.ppuRegRead s.ppu (ppuReg a) s.ext).2, by simp only [hRead, ppuRead, if_neg hr]⟩
  | cartridge =>
    cases hc : s.cart with
    | some c =>
      exact .inr <| .inr <| .inr <| .inr <| .inr <| .inr
        ⟨c, (Config.cartRead c a).2, rfl, by simp [hRead, cartRead, State.server, hc]⟩
    | none =>
      refine .inl ?_
      cases ht : s.tram with
      | none => simp [hRead, cartRead, State.server, hc, ht]
      | some m =>
        by_cases ha : 0x8000 ≤ a.toNat
        · simp [hRead, cartRead, State.server, hc, ht, ha]
        · simp [hRead, cartRead, State.server, hc, ht, ha]

/-- Everything a handler's write can do to the state. -/
theorem hWrite_cases (h : Handler) (a : Addr) (v : Byte) (s : State) :
    hWrite h a v s = s ∨
    (h = .ram ∧ hWrite h a v s = s.setRam (Memory.write .ram s.ram (ramOffset a) v)) ∨
    (h = .ppu ∧ ppuReg a = 0 ∧ hWrite h a v s = s.setPpu (controlWrite v s.ppu)) ∨
    (∃ r, hWrite h a v s = s.setPpu { s.ppu with rest := r }) ∨
    (∃ x, hWrite h a v s = s.setApu x) ∨
    (∃ x, hWrite h a v s = s.setDma x) ∨
    (∃ x, hWrite h a v s = s.setCtrl x) ∨
    (∃ c x, s.cart = some c ∧
      hWrite h a v s = (s.setCart (some x)).setPpu { s.ppu with mirroring := Config.cartMirroring x }) ∨
    (∃ m, s.cart = none ∧ s.tram = some m ∧
      hWrite h a v s = s.setTram (some (Memory.write .tram m (tramOffset a) v))) := by
  cases h with
  | ram => exact .inr <| .inl ⟨rfl, rfl⟩
  | openBus => exact .inl rfl
  | apu => exact .inr <| .inr <| .inr <| .inr <| .inl ⟨_, rfl⟩
  | oamDma => exact .inr <| .inr <| .inr <| .inr <| .inr <| .inl ⟨_, rfl⟩
  | controller => exact .inr <| .inr <| .inr <| .inr <| .inr <| .inr <| .inl ⟨_, rfl⟩
  | ppu =>
    by_cases hr : ppuReg a = 0
    · exact .inr <| .inr <| .inl ⟨rfl, hr, by simp only [hWrite, ppuWrite, if_pos hr]⟩
    · exact .inr <| .inr <| .inr <| .inl
        ⟨Config.ppuRegWrite s.ppu (ppuReg a) v, by simp only [hWrite, ppuWrite, if_neg hr]⟩
  | cartridge =>
    cases hc : s.cart with
    | some c =>
      exact .inr <| .inr <| .inr <| .inr <| .inr <| .inr <| .inr <| .inl
        ⟨c, Config.cartWrite c a v, rfl, by simp [hWrite, cartWrite, State.server, hc]⟩
    | none =>
      cases ht : s.tram with
      | none => exact .inl (by simp [hWrite, cartWrite, State.server, hc, ht])
      | some m =>
        by_cases ha : 0x8000 ≤ a.toNat
        · exact .inr <| .inr <| .inr <| .inr <| .inr <| .inr <| .inr <| .inr
            ⟨m, rfl, rfl, by simp [hWrite, cartWrite, State.server, hc, ht, ha]⟩
        · exact .inl (by simp [hWrite, cartWrite, State.server, hc, ht, ha])

/-- The fields no handler writes: the latch, the observer, the clock, the timer, the ports, the mode (`10_state.md` R21). -/
structure SameOutside (s t : State) : Prop where
  ext : t.ext = s.ext
  int : t.int = s.int
  masterCycle : t.masterCycle = s.masterCycle
  timer : t.timer = s.timer
  dwReadMode : t.dwReadMode = s.dwReadMode
  observer : t.observer = s.observer
  resp : t.resp = s.resp
  inbox : t.inbox = s.inbox
  mid : t.mid = s.mid

theorem hRead_sameOutside (h : Handler) (a : Addr) (s : State) : SameOutside s (hRead h a s).2 := by
  obtain e | ⟨-, -, e⟩ | ⟨_, e⟩ | ⟨_, e⟩ | ⟨_, e⟩ | ⟨_, e⟩ | ⟨_, _, -, e⟩ := hRead_cases h a s <;> rw [e] <;>
    exact ⟨rfl, rfl, rfl, rfl, rfl, rfl, rfl, rfl, rfl⟩

theorem hWrite_sameOutside (h : Handler) (a : Addr) (v : Byte) (s : State) : SameOutside s (hWrite h a v s) := by
  obtain e | ⟨-, e⟩ | ⟨-, -, e⟩ | ⟨_, e⟩ | ⟨_, e⟩ | ⟨_, e⟩ | ⟨_, e⟩ | ⟨_, _, -, e⟩ | ⟨_, -, -, e⟩ :=
    hWrite_cases h a v s <;> rw [e] <;> exact ⟨rfl, rfl, rfl, rfl, rfl, rfl, rfl, rfl, rfl⟩

/-- A handler's read leaves both memories as they are. -/
theorem hRead_memories (h : Handler) (a : Addr) (s : State) :
    (hRead h a s).2.ram = s.ram ∧ (hRead h a s).2.tram = s.tram := by
  obtain e | ⟨-, -, e⟩ | ⟨_, e⟩ | ⟨_, e⟩ | ⟨_, e⟩ | ⟨_, e⟩ | ⟨_, _, -, e⟩ := hRead_cases h a s <;> rw [e] <;>
    exact ⟨rfl, rfl⟩

/-- No handler looks at the response port. -/
theorem hRead_setResp (h : Handler) (a : Addr) (s : State) (r : Response) :
    hRead h a (s.setResp r) = ((hRead h a s).1, (hRead h a s).2.setResp r) := by
  cases h with
  | ram => rfl
  | openBus => rfl
  | apu => rfl
  | oamDma => rfl
  | controller => rfl
  | ppu =>
    by_cases hr : ppuReg a = 2
    · simp only [hRead, ppuRead, if_pos hr]; rfl
    · simp only [hRead, ppuRead, if_neg hr]; rfl
  | cartridge =>
    have hs : (s.setResp r).server a = s.server a := rfl
    cases hv : s.server a with
    | cartridge c => simp [hRead, cartRead, hs, hv]; rfl
    | testRam m => simp [hRead, cartRead, hs, hv]
    | nothing => simp [hRead, cartRead, hs, hv]

/-! ### The environment -/

@[simp] theorem State.goTo_eq (s : State) (p : FramePhase) : s.goTo p = s.setTimer { s.timer with phase := p } := rfl

@[simp] theorem State.setDelivered_eq (s : State) : s.setDelivered = s.setTimer ⟨.vblank, some s.masterCycle⟩ := rfl

/-- An access may be issued unless it must come before the `SetDue` of its cycle and that one is delivered. -/
theorem State.admits_iff (late : Bool) (s : State) :
    s.admits late = true ↔ s.timer.setDueAt ≠ some s.masterCycle ∨ late = true := by
  simp [State.admits, or_comm]

/-- Everything one move of the environment can do: the table of `43_ppu_registers.md` R182 in the frame's order (R185),
and the other inputs. -/
theorem deliver_cases {e : Event} {s t : State} (h : deliver e s = .ok t) :
    (∃ n, e = .clock n ∧ s.masterCycle.toNat ≤ n.toNat ∧ (∀ c, s.dueCycle = some c → n.toNat ≤ c.toNat) ∧
      t = s.setMasterCycle n) ∨
    (∃ c, e = .schedule c ∧ s.timer.phase = .start ∧ s.ppu.vblState = .clear ∧ s.masterCycle.toNat ≤ c.toNat ∧
      t = (s.setPpu { s.ppu with vblState := .setPending c }).goTo .scheduled) ∨
    (e = .setDue ∧ s.timer.phase = .scheduled ∧ s.ppu.vblState = .setPending s.masterCycle ∧
      t = (s.setPpu { s.ppu with vblState := .active, vblankFlag := true }).setDelivered) ∨
    (e = .setDue ∧ s.timer.phase = .scheduled ∧
      (s.ppu.vblState = .clear ∨
        s.ppu.vblState = .suppressedThisFrame ∧ s.ppu.preventSetCycle = some s.masterCycle) ∧
      t = s.setDelivered) ∨
    (e = .endOfVBlank ∧ s.timer.phase = .vblank ∧ s.ppu.vblState = .active ∧
      t = (s.setPpu { s.ppu with vblState := .clear, vblankFlag := false }).goTo .over) ∨
    (e = .endOfVBlank ∧ s.timer.phase = .vblank ∧
      (s.ppu.vblState = .clear ∨ s.ppu.vblState = .suppressedThisFrame) ∧ t = s.goTo .over) ∨
    (e = .frameBoundary ∧ s.timer.phase = .over ∧ s.ppu.vblState = .suppressedThisFrame ∧
      t = (s.setPpu { s.ppu with vblState := .clear, preventSetCycle := none }).goTo .start) ∨
    (e = .frameBoundary ∧ s.timer.phase = .over ∧ s.ppu.vblState = .clear ∧ t = s.goTo .start) ∨
    t = s.setPpu { s.ppu with warmupComplete := true } ∨
    (∃ hit overflow, t = s.setPpu { s.ppu with sprite0Hit := hit, spriteOverflow := overflow }) ∨
    (∃ p, t = s.setPpu { s.ppu with rest := p }) ∨
    (∃ p, t = s.setApu p) ∨
    (∃ p, t = s.setDma p) ∨
    (∃ p, t = s.setCtrl p) ∨
    (∃ c p, s.cart = some c ∧ t = s.setCart (some p)) := by
  cases e with
  | clock n =>
    refine .inl ⟨n, rfl, ?_⟩
    simp only [deliver, clockTo] at h
    split at h
    · cases h
    · rename_i hn
      refine ⟨Nat.le_of_not_lt hn, ?_⟩
      split at h
      · rename_i c hc
        split at h
        · cases h
        · rename_i hcn
          cases h
          refine ⟨fun c' hc' => ?_, rfl⟩
          rw [hc] at hc'
          cases hc'
          omega
      · rename_i hc
        cases h
        refine ⟨fun c' hc' => ?_, rfl⟩
        rw [hc] at hc'
        cases hc'
  | schedule c =>
    simp only [deliver, scheduleSet] at h
    split at h
    · cases h
    · rename_i hp
      split at h
      · rename_i hc
        split at h
        · cases h
        · rename_i hn
          cases h
          exact .inr <| .inl ⟨c, rfl, not_not.mp hp, hc, Nat.le_of_not_lt hn, rfl⟩
      all_goals cases h
  | setDue =>
    simp only [deliver, setDue] at h
    split at h
    · cases h
    · rename_i hp
      split at h
      · rename_i c hc
        split at h
        · rename_i hm
          cases h
          exact .inr <| .inr <| .inl ⟨rfl, not_not.mp hp, by rw [hc, hm], rfl⟩
        · cases h
      · rename_i hc
        split at h
        · rename_i hm
          cases h
          exact .inr <| .inr <| .inr <| .inl ⟨rfl, not_not.mp hp, .inr ⟨hc, hm⟩, rfl⟩
        · cases h
      · rename_i hc
        cases h
        exact .inr <| .inr <| .inr <| .inl ⟨rfl, not_not.mp hp, .inl hc, rfl⟩
      · cases h
  | endOfVBlank =>
    simp only [deliver, endOfVBlank] at h
    split at h
    · cases h
    · rename_i hp
      split at h
      · rename_i hc
        cases h
        exact .inr <| .inr <| .inr <| .inr <| .inl ⟨rfl, not_not.mp hp, hc, rfl⟩
      · rename_i hc
        cases h
        exact .inr <| .inr <| .inr <| .inr <| .inr <| .inl ⟨rfl, not_not.mp hp, .inl hc, rfl⟩
      · rename_i hc
        cases h
        exact .inr <| .inr <| .inr <| .inr <| .inr <| .inl ⟨rfl, not_not.mp hp, .inr hc, rfl⟩
      · cases h
  | frameBoundary =>
    simp only [deliver, frameBoundary] at h
    split at h
    · cases h
    · rename_i hp
      split at h
      · rename_i hc
        cases h
        exact .inr <| .inr <| .inr <| .inr <| .inr <| .inr <| .inl ⟨rfl, not_not.mp hp, hc, rfl⟩
      · rename_i hc
        cases h
        exact .inr <| .inr <| .inr <| .inr <| .inr <| .inr <| .inr <| .inl ⟨rfl, not_not.mp hp, hc, rfl⟩
      all_goals cases h
  | warmupDone =>
    cases h
    iterate 8 right
    exact .inl rfl
  | spriteFlags a b =>
    cases h
    iterate 9 right
    exact .inl ⟨a, b, rfl⟩
  | ppuMoves p =>
    cases h
    iterate 10 right
    exact .inl ⟨p, rfl⟩
  | apuMoves p =>
    cases h
    iterate 11 right
    exact .inl ⟨p, rfl⟩
  | dmaMoves p =>
    cases h
    iterate 12 right
    exact .inl ⟨p, rfl⟩
  | ctrlMoves p =>
    cases h
    iterate 13 right
    exact .inl ⟨p, rfl⟩
  | cartMoves p =>
    simp only [deliver, cartMoves] at h
    split at h
    · rename_i c hc
      cases h
      iterate 14 right
      exact ⟨c, p, hc, rfl⟩
    · cases h

/-- The fields no move of the environment writes. -/
structure SameInside (s t : State) : Prop where
  ext : t.ext = s.ext
  int : t.int = s.int
  ram : t.ram = s.ram
  tram : t.tram = s.tram
  dwReadMode : t.dwReadMode = s.dwReadMode
  observer : t.observer = s.observer
  resp : t.resp = s.resp
  inbox : t.inbox = s.inbox

theorem deliver_sameInside {e : Event} {s t : State} (h : deliver e s = .ok t) : SameInside s t ∧ t.mid = s.mid := by
  obtain ⟨_, -, -, -, rfl⟩ | ⟨_, -, -, -, -, rfl⟩ | ⟨-, -, -, rfl⟩ | ⟨-, -, -, rfl⟩ | ⟨-, -, -, rfl⟩ | ⟨-, -, -, rfl⟩ |
    ⟨-, -, -, rfl⟩ | ⟨-, -, -, rfl⟩ | rfl | ⟨_, _, rfl⟩ | ⟨_, rfl⟩ | ⟨_, rfl⟩ | ⟨_, rfl⟩ | ⟨_, rfl⟩ | ⟨_, _, -, rfl⟩ :=
    deliver_cases h <;> exact ⟨⟨rfl, rfl, rfl, rfl, rfl, rfl, rfl, rfl⟩, rfl⟩

/-- What every admitted move keeps, and what does not depend on `mid`, the moves between two accesses keep. -/
theorem deliverAll_keeps {P : State → Prop} (hdeliver : ∀ e s t, P s → deliver e s = .ok t → P t)
    (hmid : ∀ s es, P s → P (s.setMid es)) (late : Bool) (es : List Event) {s : State} (hs : P s) :
    P (deliverAll late es s) := by
  induction es generalizing s with
  | nil => exact hmid s [] hs
  | cons e es ih =>
    simp only [deliverAll]
    split
    · rename_i t ht
      split
      · exact ih (hdeliver e s t hs ht)
      · exact hmid s _ hs
    · exact hmid s _ hs

theorem between_sameInside (late : Bool) (s : State) : SameInside s (between late s) := by
  unfold between
  refine deliverAll_keeps (P := fun t => SameInside s t) (fun e t u ht hu => ?_)
    (fun t es ht => ⟨ht.1, ht.2, ht.3, ht.4, ht.5, ht.6, ht.7, ht.8⟩) late s.mid
    ⟨rfl, rfl, rfl, rfl, rfl, rfl, rfl, rfl⟩
  obtain ⟨h, -⟩ := deliver_sameInside hu
  exact ⟨h.1.trans ht.1, h.2.trans ht.2, h.3.trans ht.3, h.4.trans ht.4, h.5.trans ht.5, h.6.trans ht.6,
    h.7.trans ht.7, h.8.trans ht.8⟩

/-- With nothing between the accesses nothing happens there. -/
theorem between_of_mid_nil {s : State} (h : s.mid = []) (late : Bool) : between late s = s := by
  unfold between
  rw [h]
  cases s
  simp only at h
  subst h
  rfl

/-- No move of the environment looks at the response port. -/
theorem deliver_setResp (e : Event) (s : State) (r : Response) :
    deliver e (s.setResp r) = (deliver e s).map (fun t => t.setResp r) := by
  cases e with
  | clock n =>
    have hd : (s.setResp r).dueCycle = s.dueCycle := rfl
    simp only [deliver, clockTo, hd, State.setResp_masterCycle]
    split
    · rfl
    · split
      · split <;> rfl
      · rfl
  | schedule c =>
    simp only [deliver, scheduleSet, State.setResp_timer, State.setResp_ppu, State.setResp_masterCycle]
    by_cases hp : s.timer.phase = .start
    · cases hv : s.ppu.vblState <;> simp only [hp, ne_eq, not_true_eq_false, if_false]
      · by_cases hc : c.toNat < s.masterCycle.toNat <;> simp only [hc, if_true, if_false] <;> rfl
      all_goals rfl
    · simp only [hp, ne_eq, not_false_eq_true, if_true]; rfl
  | setDue =>
    simp only [deliver, setDue, State.setResp_timer, State.setResp_ppu, State.setResp_masterCycle]
    by_cases hp : s.timer.phase = .scheduled
    · cases hv : s.ppu.vblState <;> simp only [hp, ne_eq, not_true_eq_false, if_false]
      case setPending c => by_cases hc : s.masterCycle = c <;> simp only [hc, if_true, if_false] <;> rfl
      case suppressedThisFrame =>
        by_cases hc : s.ppu.preventSetCycle = some s.masterCycle <;> simp only [hc, if_true, if_false] <;> rfl
      all_goals rfl
    · simp only [hp, ne_eq, not_false_eq_true, if_true]; rfl
  | endOfVBlank =>
    simp only [deliver, endOfVBlank, State.setResp_timer, State.setResp_ppu]
    by_cases hp : s.timer.phase = .vblank
    · cases hv : s.ppu.vblState <;> simp only [hp, ne_eq, not_true_eq_false, if_false] <;> rfl
    · simp only [hp, ne_eq, not_false_eq_true, if_true]; rfl
  | frameBoundary =>
    simp only [deliver, frameBoundary, State.setResp_timer, State.setResp_ppu]
    by_cases hp : s.timer.phase = .over
    · cases hv : s.ppu.vblState <;> simp only [hp, ne_eq, not_true_eq_false, if_false] <;> rfl
    · simp only [hp, ne_eq, not_false_eq_true, if_true]; rfl
  | cartMoves p =>
    simp only [deliver, cartMoves, State.setResp_cart]
    split <;> rfl
  | warmupDone => rfl
  | spriteFlags a b => rfl
  | ppuMoves p => rfl
  | apuMoves p => rfl
  | dmaMoves p => rfl
  | ctrlMoves p => rfl

theorem deliverAll_setResp (late : Bool) (es : List Event) (s : State) (r : Response) :
    deliverAll late es (s.setResp r) = (deliverAll late es s).setResp r := by
  induction es generalizing s with
  | nil => rfl
  | cons e es ih =>
    have ha : ∀ t : State, (t.setResp r).admits late = t.admits late := fun _ => rfl
    simp only [deliverAll, deliver_setResp]
    cases h : deliver e s with
    | ok t =>
      simp only [Except.map, ih, ha]
      split <;> rfl
    | error x => rfl

theorem between_setResp (late : Bool) (s : State) (r : Response) :
    between late (s.setResp r) = (between late s).setResp r :=
  deliverAll_setResp late s.mid s r

/-- Whatever the environment does between two accesses, the second one may be issued after it, if it could before. -/
theorem deliverAll_admits (late : Bool) (es : List Event) {s : State} (h : s.admits late = true) :
    (deliverAll late es s).admits late = true := by
  cases es with
  | nil => exact h
  | cons e es =>
    simp only [deliverAll]
    split
    · split
      · assumption
      · exact h
    · exact h

/-! ### READ, WRITE or PEEK, dispatched -/

/-- The second write of the latch pair is the range's. -/
theorem record_eq (r : Range) (a : Addr) (p : Byte × State) :
    record r a p = (p.1, { p.2 with
      ext := if r = .apuStatus then p.2.ext else p.1,
      int := if r = .apuStatus then p.1 else p.2.int,
      observer := p.2.observer.map (fun calls => calls ++ [⟨a, p.1, false⟩]) }) := by
  unfold record State.latchRead State.observe
  by_cases h : r = .apuStatus
  · simp only [if_pos h]; rfl
  · simp only [if_neg h]; rfl

/-- The range APU_STATUS is the address `0x4015` (`40_dispatch.md` R100, corner case 1). -/
theorem rangeOf_eq_apuStatus (a : Addr) : rangeOf a = .apuStatus ↔ a = 0x4015 := by
  constructor
  · intro h
    unfold rangeOf at h
    apply BitVec.eq_of_toNat_eq
    change a.toNat = 0x4015
    repeat' split at h
    all_goals first | (cases h; done) | assumption
  · rintro rfl
    rfl

end Sys2Proof.Machine
end

