-- ==== Sys2Proof/Laws/Exec.lean ====
section
/-! SUPPORT. What the instructions and the step are made of, once: an `ADDR` or `PPUREG` row is one capability of one
handler with the dispatcher around it, and what the block's pieces keep, every instruction and every step keeps. -/

namespace Sys2Proof.Machine

theorem ppuReg_setWidth (r : BitVec 3) : ppuReg (r.setWidth 16) = r := by
  revert r
  decide

/-- A PPU register is the PPU handler at an address with the register's number in its low bits. -/
theorem ppuReg_handler (r : BitVec 3) (s : State) :
    ppuRead r s = hRead .ppu (r.setWidth 16) s ∧ (∀ v, ppuWrite r v s = hWrite .ppu (r.setWidth 16) v s) ∧
    ppuPeek r s = hPeek .ppu (r.setWidth 16) s := by
  simp [hRead, hWrite, hPeek, ppuReg_setWidth]

/-- At an image of the register the register's row is the PPU row. -/
theorem operatePpuReg_eq {r : BitVec 3} {a : Addr} (h : ppuReg a = r) (c : Capability) (s : State) :
    operatePpuReg r a c s = operate .ppu a c s := by
  subst h
  cases c <;> rfl

/-- Every row of the handlers is one capability of its range's handler, or of a PPU register. -/
theorem exec_row {i : Instr} (hi : i.format ≠ .req) (s : State) :
    (∃ r a c, exec i s = .next (operate r a c s)) ∨ ∃ n a c, exec i s = .next (operatePpuReg n a c s) := by
  cases i with
  | read _ => exact absurd rfl hi
  | write _ _ => exact absurd rfl hi
  | peek _ => exact absurd rfl hi
  | read16 _ => exact absurd rfl hi
  | read16bug _ => exact absurd rfl hi
  | dummyread _ => exact absurd rfl hi
  | dummywrite _ => exact absurd rfl hi
  | reservedOp7 => exact absurd rfl hi
  | ram a c => exact .inl ⟨.ram, a, c, rfl⟩
  | ppu a c => exact .inl ⟨.ppu, a, c, rfl⟩
  | apu4000 a c => exact .inl ⟨.apu, a, c, rfl⟩
  | apu4010 a c => exact .inl ⟨.apu, a, c, rfl⟩
  | oamDma a c => exact .inl ⟨.oamDma, a, c, rfl⟩
  | apuStatus a c => exact .inl ⟨.apuStatus, a, c, rfl⟩
  | controller a c => exact .inl ⟨.controller, a, c, rfl⟩
  | openBus a c => exact .inl ⟨.openBus, a, c, rfl⟩
  | cartridge4020 a c => exact .inl ⟨.cartridge, a, c, rfl⟩
  | cartridge4040 a c => exact .inl ⟨.cartridge, a, c, rfl⟩
  | cartridge4080 a c => exact .inl ⟨.cartridge, a, c, rfl⟩
  | cartridge4100 a c => exact .inl ⟨.cartridge, a, c, rfl⟩
  | cartridge4200 a c => exact .inl ⟨.cartridge, a, c, rfl⟩
  | cartridge4400 a c => exact .inl ⟨.cartridge, a, c, rfl⟩
  | cartridge4800 a c => exact .inl ⟨.cartridge, a, c, rfl⟩
  | cartridge5000 a c => exact .inl ⟨.cartridge, a, c, rfl⟩
  | cartridge6000 a c => exact .inl ⟨.cartridge, a, c, rfl⟩
  | cartridge8000 a c => exact .inl ⟨.cartridge, a, c, rfl⟩
  | ppureg0 a c => exact .inr ⟨0, a, c, rfl⟩
  | ppureg1 a c => exact .inr ⟨1, a, c, rfl⟩
  | ppureg2 a c => exact .inr ⟨2, a, c, rfl⟩
  | ppureg3 a c => exact .inr ⟨3, a, c, rfl⟩
  | ppureg4 a c => exact .inr ⟨4, a, c, rfl⟩
  | ppureg5 a c => exact .inr ⟨5, a, c, rfl⟩
  | ppureg6 a c => exact .inr ⟨6, a, c, rfl⟩
  | ppureg7 a c => exact .inr ⟨7, a, c, rfl⟩

/-- What the handlers, the latch updates, the observer, the response port and the environment's moves inside an
operation keep, every instruction keeps. -/
theorem exec_keeps {P : State → Prop} (hread : ∀ h a s, P s → P (hRead h a s).2)
    (hwrite : ∀ h a v s, P s → P (hWrite h a v s)) (hext : ∀ s x, P s → P (s.setExt x))
    (hint : ∀ s x, P s → P (s.setInt x)) (hobserve : ∀ s a x w, P s → P (s.observe a x w))
    (hresp : ∀ s x, P s → P (s.setResp x)) (hbetween : ∀ late s, P s → P (between late s)) {i : Instr} {s t : State}
    (hs : P s) (h : exec i s = .next t) : P t := by
  have recorded : ∀ r a (p : Byte × State), P p.2 → P (record r a p).2 := fun r a p hp => by
    unfold record State.latchRead
    split
    · exact hobserve _ _ _ _ (hint _ _ hp)
    · exact hobserve _ _ _ _ (hext _ _ hp)
  have read : ∀ a s, P s → P (busRead a s).2 := fun a s hs => recorded _ _ _ (hread _ _ _ hs)
  have write : ∀ a v s, P s → P (busWrite a v s) := fun a v s hs =>
    hobserve _ _ _ _ (hwrite _ _ _ _ (hext _ _ hs))
  have fetched : ∀ a s, P s → P (fetchNoLatch a s).2 := fun a s hs => by
    unfold fetchNoLatch
    split
    · exact hs
    · exact hread _ _ _ hs
  by_cases hf : i.format = .req
  · cases i
    case read a => cases h; exact hresp _ _ (read _ _ hs)
    case write a v => cases h; exact hresp _ _ (write _ _ _ hs)
    case peek a => cases h; exact hresp _ _ hs
    case read16 a => cases h; exact hresp _ _ (read _ _ (hbetween _ _ (read _ _ hs)))
    case read16bug a => cases h; exact hresp _ _ (read _ _ (hbetween _ _ (read _ _ hs)))
    case dummyread a => cases h; exact hresp _ _ (read _ _ hs)
    case dummywrite a => cases h; exact hresp _ _ (write _ _ _ (hbetween _ _ (fetched _ _ hs)))
    case reservedOp7 => cases h
    all_goals cases hf
  · obtain ⟨r, a, c, e⟩ | ⟨n, a, c, e⟩ := exec_row hf s <;> rw [e] at h <;> cases h <;> cases c with
    | read =>
      first
      | exact hresp _ _ (recorded _ _ _ (hread _ _ _ hs))
      | exact hresp _ _ (recorded _ _ _ ((ppuReg_handler _ _).1 ▸ hread _ _ _ hs))
    | write v =>
      first
      | exact hresp _ _ (hobserve _ _ _ _ (hwrite _ _ _ _ (hext _ _ hs)))
      | exact hresp _ _ (hobserve _ _ _ _ ((ppuReg_handler _ _).2.1 v ▸ hwrite _ _ _ _ (hext _ _ hs)))
    | peek => exact hresp _ _ hs

/-- Everything a step that goes on can do: stand idle, run an operation, take an event or attach a cartridge. -/
theorem step_cases {s t : State} (h : step s = .next t) :
    (s.inbox = [] ∧ t = s) ∨
    (∃ f w es rest i u, s.inbox = .word f w es :: rest ∧ decode f w = .ok i ∧
      s.admits (followsSet i) = true ∧ exec i { s with inbox := rest, mid := es } = .next u ∧ t = retire u) ∨
    (∃ e rest, s.inbox = .event e :: rest ∧ deliver e { s with inbox := rest } = .ok t) ∨
    (∃ c rest, s.inbox = .attach c :: rest ∧ s.cart = none ∧ t = { s with cart := some c, inbox := rest }) := by
  unfold step fetch at h
  cases hin : s.inbox with
  | nil => rw [hin] at h; cases h; exact .inl ⟨rfl, rfl⟩
  | cons x rest =>
    rw [hin] at h
    cases x with
    | word f w es =>
      cases hd : decode f w with
      | error e => simp only [hd] at h; cases h
      | ok i =>
        simp only [hd] at h
        by_cases ha : s.admits (followsSet i) = true
        case neg => rw [if_neg ha] at h; cases h
        simp only [if_pos ha] at h
        cases he : exec i ((s.setInbox rest).setMid es) with
        | next u => rw [he] at h; cases h; exact .inr <| .inl ⟨f, w, es, rest, i, u, rfl, hd, ha, he, rfl⟩
        | fault r => cases r
        | refused r => rw [he] at h; cases h
    | event e =>
      cases hd : deliver e (s.setInbox rest) with
      | ok u => simp only [hd] at h; cases h; exact .inr <| .inr <| .inl ⟨e, rest, rfl, hd⟩
      | error r => simp only [hd] at h; cases h
    | attach c =>
      cases hc : s.cart with
      | none =>
        simp only [attachCartridge, State.setInbox_cart, hc] at h
        cases h
        exact .inr <| .inr <| .inr ⟨c, rest, rfl, rfl, rfl⟩
      | some _ => simp only [attachCartridge, State.setInbox_cart, hc] at h; cases h

end Sys2Proof.Machine
end

