-- ==== Sys2Proof/Laws/PerInstr.lean ====
section
/-! SUPPORT. Per instruction: the word an instruction encodes to lies in the instruction's own row of the opcode
table, by the row's match and mask as the table writes them. -/

namespace Sys2Proof

/-- The "mask" of the instruction's row in spec/opcode_table.json. -/
def Instr.rowMask : Instr → PortWord
  | .read _ => 0x7000000
  | .write _ _ => 0x7000000
  | .peek _ => 0x7000000
  | .read16 _ => 0x7000000
  | .read16bug _ => 0x7000000
  | .dummyread _ => 0x7000000
  | .dummywrite _ => 0x7000000
  | .reservedOp7 => 0x7000000
  | .ram _ _ => 0xE000
  | .ppu _ _ => 0xE000
  | .apu4000 _ _ => 0xFFF0
  | .apu4010 _ _ => 0xFFFC
  | .oamDma _ _ => 0xFFFF
  | .apuStatus _ _ => 0xFFFF
  | .controller _ _ => 0xFFFE
  | .openBus _ _ => 0xFFF8
  | .cartridge4020 _ _ => 0xFFE0
  | .cartridge4040 _ _ => 0xFFC0
  | .cartridge4080 _ _ => 0xFF80
  | .cartridge4100 _ _ => 0xFF00
  | .cartridge4200 _ _ => 0xFE00
  | .cartridge4400 _ _ => 0xFC00
  | .cartridge4800 _ _ => 0xF800
  | .cartridge5000 _ _ => 0xF000
  | .cartridge6000 _ _ => 0xE000
  | .cartridge8000 _ _ => 0x8000
  | .ppureg0 _ _ => 0xE007
  | .ppureg1 _ _ => 0xE007
  | .ppureg2 _ _ => 0xE007
  | .ppureg3 _ _ => 0xE007
  | .ppureg4 _ _ => 0xE007
  | .ppureg5 _ _ => 0xE007
  | .ppureg6 _ _ => 0xE007
  | .ppureg7 _ _ => 0xE007

/-- The "match" of the instruction's row. -/
def Instr.rowMatch : Instr → PortWord
  | .read _ => 0x0000000
  | .write _ _ => 0x1000000
  | .peek _ => 0x2000000
  | .read16 _ => 0x3000000
  | .read16bug _ => 0x4000000
  | .dummyread _ => 0x5000000
  | .dummywrite _ => 0x6000000
  | .reservedOp7 => 0x7000000
  | .ram _ _ => 0x0000
  | .ppu _ _ => 0x2000
  | .apu4000 _ _ => 0x4000
  | .apu4010 _ _ => 0x4010
  | .oamDma _ _ => 0x4014
  | .apuStatus _ _ => 0x4015
  | .controller _ _ => 0x4016
  | .openBus _ _ => 0x4018
  | .cartridge4020 _ _ => 0x4020
  | .cartridge4040 _ _ => 0x4040
  | .cartridge4080 _ _ => 0x4080
  | .cartridge4100 _ _ => 0x4100
  | .cartridge4200 _ _ => 0x4200
  | .cartridge4400 _ _ => 0x4400
  | .cartridge4800 _ _ => 0x4800
  | .cartridge5000 _ _ => 0x5000
  | .cartridge6000 _ _ => 0x6000
  | .cartridge8000 _ _ => 0x8000
  | .ppureg0 _ _ => 0x2000
  | .ppureg1 _ _ => 0x2001
  | .ppureg2 _ _ => 0x2002
  | .ppureg3 _ _ => 0x2003
  | .ppureg4 _ _ => 0x2004
  | .ppureg5 _ _ => 0x2005
  | .ppureg6 _ _ => 0x2006
  | .ppureg7 _ _ => 0x2007

/-- An aligned block's addresses under its mask. -/
theorem addrWord_and_block {a : Addr} (c : Capability) (k q : Nat) (hq : q * 2 ^ k < 65536)
    (ha : q * 2 ^ k ≤ a.toNat ∧ a.toNat < q * 2 ^ k + 2 ^ k) :
    addrWord a c &&& (BitVec.allOnes 16 <<< k).setWidth 32 = (BitVec.ofNat 16 (q * 2 ^ k)).setWidth 32 := by
  rw [addrWord_and, (and_highMask_eq_iff a k q hq).mpr ha]

/-- A register's images under the mask of its row. -/
theorem addrWord_and_reg {a : Addr} (c : Capability) (n : Fin 8) (ha : Addr.imageOfReg n.val a) :
    addrWord a c &&& (0xE007 : PortWord) = (BitVec.ofNat 16 (0x2000 + n.val)).setWidth 32 := by
  have h : a &&& (0xE007 : Addr) = BitVec.ofNat 16 (0x2000 + n.val) := by
    have := claims_reg n .ppu .ppu a
    rw [decide_eq_true ha] at this
    exact eq_of_beq this
  rw [show (0xE007 : PortWord) = (0xE007 : Addr).setWidth 32 from by decide, addrWord_and, h]

end Sys2Proof

namespace Sys2Proof.Laws.EncodedInRow

/-- A well-formed instruction is encoded in its own row. -/
def Statement (i : Instr) : Prop := i.wellFormed = true → encode i &&& i.rowMask = i.rowMatch

theorem read (a : Addr) : Statement (.read a) := fun _ => reqWord_and 0 a 0

theorem write (a : Addr) (v : Byte) : Statement (.write a v) := fun _ => reqWord_and 1 a v

theorem peek (a : Addr) : Statement (.peek a) := fun _ => reqWord_and 2 a 0

theorem read16 (a : Addr) : Statement (.read16 a) := fun _ => reqWord_and 3 a 0

theorem read16bug (a : Addr) : Statement (.read16bug a) := fun _ => reqWord_and 4 a 0

theorem dummyread (a : Addr) : Statement (.dummyread a) := fun _ => reqWord_and 5 a 0

theorem dummywrite (a : Addr) : Statement (.dummywrite a) := fun _ => reqWord_and 6 a 0

theorem reservedOp7 : Statement .reservedOp7 := fun _ => reqWord_and 7 0 0

theorem ram (a : Addr) (c : Capability) : Statement (.ram a c) := fun h =>
  addrWord_and_block c 13 0x0 (by decide) (by have := of_decide_eq_true h; omega)

theorem ppu (a : Addr) (c : Capability) : Statement (.ppu a c) := fun h =>
  addrWord_and_block c 13 0x1 (by decide) (by have := of_decide_eq_true h; omega)

theorem apu4000 (a : Addr) (c : Capability) : Statement (.apu4000 a c) := fun h =>
  addrWord_and_block c 4 0x400 (by decide) (by have := of_decide_eq_true h; omega)

theorem apu4010 (a : Addr) (c : Capability) : Statement (.apu4010 a c) := fun h =>
  addrWord_and_block c 2 0x1004 (by decide) (by have := of_decide_eq_true h; omega)

theorem oamDma (a : Addr) (c : Capability) : Statement (.oamDma a c) := fun h =>
  addrWord_and_block c 0 0x4014 (by decide) (by have := of_decide_eq_true h; omega)

theorem apuStatus (a : Addr) (c : Capability) : Statement (.apuStatus a c) := fun h =>
  addrWord_and_block c 0 0x4015 (by decide) (by have := of_decide_eq_true h; omega)

theorem controller (a : Addr) (c : Capability) : Statement (.controller a c) := fun h =>
  addrWord_and_block c 1 0x200B (by decide) (by have := of_decide_eq_true h; omega)

theorem openBus (a : Addr) (c : Capability) : Statement (.openBus a c) := fun h =>
  addrWord_and_block c 3 0x803 (by decide) (by have := of_decide_eq_true h; omega)

theorem cartridge4020 (a : Addr) (c : Capability) : Statement (.cartridge4020 a c) := fun h =>
  addrWord_and_block c 5 0x201 (by decide) (by have := of_decide_eq_true h; omega)

theorem cartridge4040 (a : Addr) (c : Capability) : Statement (.cartridge4040 a c) := fun h =>
  addrWord_and_block c 6 0x101 (by decide) (by have := of_decide_eq_true h; omega)

theorem cartridge4080 (a : Addr) (c : Capability) : Statement (.cartridge4080 a c) := fun h =>
  addrWord_and_block c 7 0x81 (by decide) (by have := of_decide_eq_true h; omega)

theorem cartridge4100 (a : Addr) (c : Capability) : Statement (.cartridge4100 a c) := fun h =>
  addrWord_and_block c 8 0x41 (by decide) (by have := of_decide_eq_true h; omega)

theorem cartridge4200 (a : Addr) (c : Capability) : Statement (.cartridge4200 a c) := fun h =>
  addrWord_and_block c 9 0x21 (by decide) (by have := of_decide_eq_true h; omega)

theorem cartridge4400 (a : Addr) (c : Capability) : Statement (.cartridge4400 a c) := fun h =>
  addrWord_and_block c 10 0x11 (by decide) (by have := of_decide_eq_true h; omega)

theorem cartridge4800 (a : Addr) (c : Capability) : Statement (.cartridge4800 a c) := fun h =>
  addrWord_and_block c 11 0x9 (by decide) (by have := of_decide_eq_true h; omega)

theorem cartridge5000 (a : Addr) (c : Capability) : Statement (.cartridge5000 a c) := fun h =>
  addrWord_and_block c 12 0x5 (by decide) (by have := of_decide_eq_true h; omega)

theorem cartridge6000 (a : Addr) (c : Capability) : Statement (.cartridge6000 a c) := fun h =>
  addrWord_and_block c 13 0x3 (by decide) (by have := of_decide_eq_true h; omega)

theorem cartridge8000 (a : Addr) (c : Capability) : Statement (.cartridge8000 a c) := fun h =>
  addrWord_and_block c 15 0x1 (by decide) (by have := of_decide_eq_true h; omega)

theorem ppureg0 (a : Addr) (c : Capability) : Statement (.ppureg0 a c) := fun h =>
  addrWord_and_reg c 0 (of_decide_eq_true h)

theorem ppureg1 (a : Addr) (c : Capability) : Statement (.ppureg1 a c) := fun h =>
  addrWord_and_reg c 1 (of_decide_eq_true h)

theorem ppureg2 (a : Addr) (c : Capability) : Statement (.ppureg2 a c) := fun h =>
  addrWord_and_reg c 2 (of_decide_eq_true h)

theorem ppureg3 (a : Addr) (c : Capability) : Statement (.ppureg3 a c) := fun h =>
  addrWord_and_reg c 3 (of_decide_eq_true h)

theorem ppureg4 (a : Addr) (c : Capability) : Statement (.ppureg4 a c) := fun h =>
  addrWord_and_reg c 4 (of_decide_eq_true h)

theorem ppureg5 (a : Addr) (c : Capability) : Statement (.ppureg5 a c) := fun h =>
  addrWord_and_reg c 5 (of_decide_eq_true h)

theorem ppureg6 (a : Addr) (c : Capability) : Statement (.ppureg6 a c) := fun h =>
  addrWord_and_reg c 6 (of_decide_eq_true h)

theorem ppureg7 (a : Addr) (c : Capability) : Statement (.ppureg7 a c) := fun h =>
  addrWord_and_reg c 7 (of_decide_eq_true h)

end Sys2Proof.Laws.EncodedInRow
end

