-- ==== Sys2Proof/Tests/Slice0.lean ====
section
/-! SUPPORT. The model's own tests. Expected values come from `spec/opcode_table.json`, from the rules' examples and
from `95_test_vectors.md` (V1 to V9, P1 to P7), or from hand calculation on them; a witness theorem for each statement
that has hypotheses. Bytes of RAM that a test reads are listed in the state, since the power-on pattern is unknown. -/

namespace Sys2Proof.Tests

open Sys2Proof Sys2Proof.Machine

/-! ### Helpers -/

/-- A view of the next state of an outcome. -/
def after {α : Type} (f : State → α) : Host.Outcome State Fault Refusal → Option α
  | .next s => some (f s)
  | .fault _ => none
  | .refused _ => none

/-- The refusal of an outcome. -/
def refusal : Host.Outcome State Fault Refusal → Option Refusal
  | .next _ => none
  | .fault _ => none
  | .refused r => some r

/-- The bytes of the document's page-wrap example (S5, P2). -/
def pageWrap : State := { State.reset with ram := [(0x000, 0x12), (0x0FF, 0x34), (0x100, 0x99)] }

/-- The test RAM of P7. -/
def testRam : State := { State.reset with tram := some [(0x7FFD, 0x80)] }

/-- The status flags of R171's example, VBlank active, at a given cycle. -/
def statusUp (now : Cycle) : State :=
  { State.reset with
    ext := 0x5D, masterCycle := now, timer := ⟨.vblank, none⟩,
    ppu := { resetPpu with vblankFlag := true, sprite0Hit := true, vblState := .active } }

/-- P6: a set pending at cycle 5000, the NMI enabled. -/
def pendingAt (now : Cycle) : State :=
  { State.reset with
    masterCycle := now, timer := ⟨.scheduled, none⟩,
    ppu := { resetPpu with nmiEnable := true, vblState := .setPending 5000 } }

/-- P6 case B after the read: this frame's set is cancelled. -/
def cancelled : State :=
  { State.reset with
    masterCycle := 5000, timer := ⟨.scheduled, none⟩,
    ppu := { resetPpu with
      nmiEnable := true, lastReadCycle := 5000, preventSetCycle := some 5000, vblState := .suppressedThisFrame } }

/-- V7: VBlank active, NMI disabled, warm-up over. -/
def warm : State :=
  { State.reset with
    ext := 0xFF, timer := ⟨.vblank, none⟩,
    ppu := { resetPpu with vblankFlag := true, vblState := .active, warmupComplete := true } }

/-- The set of cycle 5000 has just been delivered. -/
def justSet : State :=
  { State.reset with
    masterCycle := 5000, timer := ⟨.vblank, some 5000⟩,
    ppu := { resetPpu with vblankFlag := true, vblState := .active } }

/-! ### Well-formedness: an ill-formed term for each check -/

/-- One past the row's last address, or one before its first. -/
theorem test_illFormed_low_rows :
    (Instr.ram 0x2000 .read).wellFormed = false ∧ (Instr.ppu 0x1FFF .read).wellFormed = false ∧
    (Instr.ppu 0x4000 .read).wellFormed = false ∧ (Instr.apu4000 0x4010 .read).wellFormed = false ∧
    (Instr.apu4010 0x4014 .read).wellFormed = false ∧ (Instr.oamDma 0x4015 .read).wellFormed = false ∧
    (Instr.apuStatus 0x4014 .read).wellFormed = false ∧ (Instr.controller 0x4018 .read).wellFormed = false ∧
    (Instr.openBus 0x4020 .read).wellFormed = false := by decide

theorem test_illFormed_cartridge_rows :
    (Instr.cartridge4020 0x4040 .read).wellFormed = false ∧ (Instr.cartridge4040 0x4080 .read).wellFormed = false ∧
    (Instr.cartridge4080 0x4100 .read).wellFormed = false ∧ (Instr.cartridge4100 0x4200 .read).wellFormed = false ∧
    (Instr.cartridge4200 0x4400 .read).wellFormed = false ∧ (Instr.cartridge4400 0x4800 .read).wellFormed = false ∧
    (Instr.cartridge4800 0x5000 .read).wellFormed = false ∧ (Instr.cartridge5000 0x6000 .read).wellFormed = false ∧
    (Instr.cartridge6000 0x8000 .read).wellFormed = false ∧
    (Instr.cartridge8000 0x7FFF .read).wellFormed = false := by decide

/-- A wrong register number, or an address outside the window. -/
theorem test_illFormed_registers :
    (Instr.ppureg0 0x2001 .read).wellFormed = false ∧ (Instr.ppureg1 0x2000 .read).wellFormed = false ∧
    (Instr.ppureg2 0x4002 .read).wellFormed = false ∧ (Instr.ppureg3 0x2004 .read).wellFormed = false ∧
    (Instr.ppureg4 0x1FFC .read).wellFormed = false ∧ (Instr.ppureg5 0x3FF6 .read).wellFormed = false ∧
    (Instr.ppureg6 0x2007 .read).wellFormed = false ∧ (Instr.ppureg7 0x4007 .read).wellFormed = false := by decide

/-! ### Decoding: one word per row, its bits written out from the row's "encoding" -/

/-- `ooo aaaaaaaaaaaaaaaa vvvvvvvv` (R81). -/
theorem test_decode_req :
    decode .req 0b000000100000000001000000000 = .ok (.read 0x1002) ∧
    decode .req 0b001000001111111111100010001 = .ok (.write 0x07FF 0x11) ∧
    decode .req 0b010010000000001111100000000 = .ok (.peek 0x401F) ∧
    decode .req 0b011000010001111111100000000 = .ok (.read16 0x08FF) ∧
    decode .req 0b100000010001111111100000000 = .ok (.read16bug 0x08FF) ∧
    decode .req 0b101000000000001000000000000 = .ok (.dummyread 0x0010) ∧
    decode .req 0b110010000000001100000000000 = .ok (.dummywrite 0x4018) ∧
    decode .req 0b111111111111111111111111111 = .ok .reservedOp7 := by decide

/-- The `ADDR` rows up to OPEN_BUS; bits 25:24 the capability, 23:16 the byte. -/
theorem test_decode_low_rows :
    decode .addr 0b0001100100000000 = .ok (.ram 0x1900 .read) ∧
    decode .addr 0b01001000100011111111111111 = .ok (.ppu 0x3FFF (.write 0x22)) ∧
    decode .addr 0b0100000000001111 = .ok (.apu4000 0x400F .read) ∧
    decode .addr 0b10000000000100000000010011 = .ok (.apu4010 0x4013 .peek) ∧
    decode .addr 0b01000000100100000000010100 = .ok (.oamDma 0x4014 (.write 0x02)) ∧
    decode .addr 0b0100000000010101 = .ok (.apuStatus 0x4015 .read) ∧
    decode .addr 0b0100000000010111 = .ok (.controller 0x4017 .read) ∧
    decode .addr 0b0100000000011000 = .ok (.openBus 0x4018 .read) := by decide

theorem test_decode_cartridge_rows :
    decode .addr 0b0100000000100000 = .ok (.cartridge4020 0x4020 .read) ∧
    decode .addr 0b0100000001111111 = .ok (.cartridge4040 0x407F .read) ∧
    decode .addr 0b0100000010000000 = .ok (.cartridge4080 0x4080 .read) ∧
    decode .addr 0b0100000111111111 = .ok (.cartridge4100 0x41FF .read) ∧
    decode .addr 0b0100001000000000 = .ok (.cartridge4200 0x4200 .read) ∧
    decode .addr 0b0100011111111111 = .ok (.cartridge4400 0x47FF .read) ∧
    decode .addr 0b0100100000000000 = .ok (.cartridge4800 0x4800 .read) ∧
    decode .addr 0b0101111111111111 = .ok (.cartridge5000 0x5FFF .read) ∧
    decode .addr 0b0110000000000000 = .ok (.cartridge6000 0x6000 .read) ∧
    decode .addr 0b1111111111111111 = .ok (.cartridge8000 0xFFFF .read) := by decide

/-- `001aaaaaaaaaannn` (R78). -/
theorem test_decode_registers :
    decode .ppureg 0b01100000000010000000001000 = .ok (.ppureg0 0x2008 (.write 0x80)) ∧
    decode .ppureg 0b0010000000000001 = .ok (.ppureg1 0x2001 .read) ∧
    decode .ppureg 0b0011111111111010 = .ok (.ppureg2 0x3FFA .read) ∧
    decode .ppureg 0b0010000000000011 = .ok (.ppureg3 0x2003 .read) ∧
    decode .ppureg 0b0010000000000100 = .ok (.ppureg4 0x2004 .read) ∧
    decode .ppureg 0b0010000000000101 = .ok (.ppureg5 0x2005 .read) ∧
    decode .ppureg 0b0010000000000110 = .ok (.ppureg6 0x2006 .read) ∧
    decode .ppureg 0b10000000000011111111111111 = .ok (.ppureg7 0x3FFF .peek) := by decide

/-- What no row of the table spells is turned away by name. -/
theorem test_decode_errors :
    decode .req 0b1000000000000000000000000000 = .error .strayBits ∧
    decode .addr 0b11000000000100000000010100 = .error .noCapability ∧
    decode .addr 0b100000000000100000000010100 = .error .strayBits ∧
    decode .ppureg 0b0100000000000010 = .error .outsidePpuWindow := by decide

/-- V1: the first and last address of every range. -/
theorem test_ranges :
    [0x0000, 0x1FFF, 0x2000, 0x3FFF, 0x4000, 0x4013, 0x4014, 0x4015, 0x4016, 0x4017, 0x4018, 0x401F, 0x4020,
      0xFFFF].map rangeOf =
    [.ram, .ram, .ppu, .ppu, .apu, .apu, .oamDma, .apuStatus, .controller, .controller, .openBus, .openBus,
      .cartridge, .cartridge] := by decide

/-- Words as the table numbers them: a `REQ` row has four bytes, an `ADDR` row two; log entry 2 for the PPU window. -/
theorem test_table_words :
    decodeTableWord 32 0x0401800 = some (.read 0x4018) ∧ decodeTableWord 32 0x7000000 = some .reservedOp7 ∧
    decodeTableWord 16 0x8000 = some (.cartridge8000 0x8000 .read) ∧
    decodeTableWord 16 0x2002 = some (.ppureg2 0x2002 .read) := by decide

/-- A placed word is the first instruction after reset: P1's first unmapped read answers the latch of construction
(V9: `0x00`). -/
theorem test_placed_word_runs :
    after (fun t => (t.resp, t.inbox)) (step (State.reset.withFetchWord 32 0x0401800)) =
      some (.byte 0x00, []) := by decide

theorem test_placed_reserved_word :
    refusal (step (State.reset.withFetchWord 32 0x7000000)) = some .reservedOp := by decide

/-! ### READ, WRITE, PEEK -/

/-- R100's example, through the mirror `0x0810`. -/
theorem test_read_ram :
    after (fun t => (t.resp, t.ext, t.int)) (exec (.read 0x0810) { State.reset with ext := 0x22, ram := [(0x10, 0x40)] }) =
      some (.byte 0x40, 0x40, 0x00) := by decide

/-- P5 step 3: the status byte, the flag cleared, the cycle recorded. -/
theorem test_read_status :
    after (fun t => (t.resp, t.ext, t.ppu.vblankFlag, t.ppu.vblState, t.ppu.lastReadCycle, nmiLine t.ppu))
        (exec (.read 0x2002) (statusUp 1000)) =
      some (.byte 0xDD, 0xDD, false, .clear, 1000, false) := by decide

/-- R121's example: `WRITE $1900, #$99` sets `ram[0x100]`, and `0x0100` reads it. -/
theorem test_write_ram : ∃ t, exec (.write 0x1900 0x99) State.reset = .next t ∧ t.ext = 0x99 ∧
    t.ramByte 0x0100 = 0x99 :=
  ⟨_, rfl, rfl, Memory.read_write_same .ram [] 0x100 0x99⟩

/-- V8: with no cartridge and no test RAM a write to `0x8000` changes only `ext`. -/
theorem test_write_unmapped :
    exec (.write 0x8000 0x22) State.reset = .next { State.reset with ext := 0x22 } := by rfl

/-- P5 step 2: the status byte, nothing cleared. -/
theorem test_peek_status :
    exec (.peek 0x2002) (statusUp 995) = .next { statusUp 995 with resp := .byte 0xDD } := by rfl

/-- V7: a peek of any other PPU register answers the latch. -/
theorem test_peek_register :
    after (fun t => t.resp) (exec (.peek 0x2007) (statusUp 0)) = some (.byte 0x5D) := by decide

/-! ### Composite operations -/

/-- V5 row 2. -/
theorem test_read16 :
    after (fun t => (t.resp, t.ext)) (exec (.read16 0x08FF) pageWrap) = some (.word 0x9934, 0x99) := by decide

/-- V5 row 5: the second address wraps to `0x0000`. -/
theorem test_read16_wraps :
    after (fun t => (t.resp, t.ext)) (exec (.read16 0xFFFF) { pageWrap with ext := 0x99 }) =
      some (.word 0x1299, 0x12) := by decide

/-- V5 row 1: no carry into the page. -/
theorem test_read16bug :
    after (fun t => (t.resp, t.ext)) (exec (.read16bug 0x08FF) pageWrap) = some (.word 0x1234, 0x12) := by decide

/-- P7 step 7, with `tram[0x0000] = 0xEA`. -/
theorem test_read16bug_testRam :
    after (fun t => (t.resp, t.ext)) (exec (.read16bug 0x80FF) { testRam with tram := some [(0x0000, 0xEA)] }) =
      some (.word 0xEA00, 0xEA) := by decide

/-- V6 row 1. -/
theorem test_dummyread :
    after (fun t => (t.resp, t.ext, t.observer))
        (exec (.dummyread 0x0010) { State.reset with ram := [(0x10, 0x40)], observer := some [] }) =
      some (.nothing, 0x40, some [⟨0x0010, 0x40, false⟩]) := by decide

/-- V6 row 3: the fetch is not seen by the observer, the write is. -/
theorem test_dummywrite_openBus :
    after (fun t => (t.ext, t.observer))
        (exec (.dummywrite 0x4018) { State.reset with ext := 0x07, observer := some [] }) =
      some (0x07, some [⟨0x4018, 0x07, true⟩]) := by decide

/-- V6 rows 4 and 5: the two capabilities of the fetch at the status register. -/
theorem test_dummywrite_status :
    after (fun t => (t.ext, t.ppu.vblankFlag, t.ppu.vblState)) (exec (.dummywrite 0x2002) { warm with ext := 0xFF }) =
      some (0x9F, true, .active) ∧
    after (fun t => (t.ext, t.ppu.vblankFlag, t.ppu.vblState))
        (exec (.dummywrite 0x2002) { warm with ext := 0xFF, dwReadMode := .readNoLatch }) =
      some (0x9F, false, .clear) := by decide

/-! ### The handler rows: READ, WRITE or PEEK dispatched by the row -/

/-- R100's example, and the observer beside it (R210). -/
theorem test_ram_row :
    after (fun t => (t.resp, t.ext, t.observer))
        (exec (.ram 0x0810 .read) { State.reset with ram := [(0x10, 0x40)], observer := some [] }) =
      some (.byte 0x40, 0x40, some [⟨0x0810, 0x40, false⟩]) := by decide

theorem test_ppu_row :
    after (fun t => (t.resp, t.ext)) (exec (.ppu 0x3FFA .peek) (statusUp 0)) = some (.byte 0xDD, 0x5D) := by decide

/-- R125's example: the APU takes the byte, and so does `ext`. -/
theorem test_apu_rows :
    exec (.apuStatus 0x4015 (.write 0x0F)) State.reset =
      .next { State.reset with ext := 0x0F, apu := Config.apuWrite ⟨0⟩ 0x4015 0x0F } ∧
    exec (.apu4000 0x4000 (.write 0x0F)) State.reset =
      .next { State.reset with ext := 0x0F, apu := Config.apuWrite ⟨0⟩ 0x4000 0x0F } ∧
    exec (.apu4010 0x4013 (.write 0x0F)) State.reset =
      .next { State.reset with ext := 0x0F, apu := Config.apuWrite ⟨0⟩ 0x4013 0x0F } := ⟨rfl, rfl, rfl⟩

/-- R100's corner case 1: a read of `0x4015` goes to `int` and leaves `ext`. -/
theorem test_apuStatus_row_read :
    after (fun t => t.ext) (exec (.apuStatus 0x4015 .read) { State.reset with ext := 0x22 }) = some 0x22 ∧
    (exec (.apuStatus 0x4015 .read) State.reset = exec (.read 0x4015) State.reset) := ⟨rfl, rfl⟩

/-- R128's example, and the controllers beside it. -/
theorem test_dma_and_controller_rows :
    exec (.oamDma 0x4014 (.write 0x02)) State.reset =
      .next { State.reset with ext := 0x02, dma := Config.dmaWrite ⟨0⟩ 0x4014 0x02 } ∧
    exec (.controller 0x4016 (.write 0x01)) State.reset =
      .next { State.reset with ext := 0x01, ctrl := Config.ctrlWrite ⟨0⟩ 0x4016 0x01 } := ⟨rfl, rfl⟩

/-- R133, R134; V3's write to an unmapped address. -/
theorem test_openBus_row :
    exec (.openBus 0x401F .read) { State.reset with ext := 0x02 } =
      .next { State.reset with ext := 0x02, resp := .byte 0x02 } ∧
    exec (.openBus 0x4018 (.write 0x7E)) { State.reset with ext := 0x02 } =
      .next { State.reset with ext := 0x7E } := ⟨rfl, rfl⟩

/-- V8: the test RAM covers `0x8000` and up, not `0x6000`. -/
theorem test_cartridge_rows_testRam :
    after (fun t => t.resp) (exec (.cartridge8000 0xFFFD .peek) testRam) = some (.byte 0x80) ∧
    after (fun t => t.resp) (exec (.cartridge6000 0x7FFD .read) { testRam with ext := 0x02 }) = some (.byte 0x02) ∧
    after (fun t => t.tram) (exec (.cartridge8000 0x8000 (.write 0xEA)) testRam) =
      some (some [(0x0000, 0xEA), (0x7FFD, 0x80)]) := by decide

/-- V8: an attached cartridge serves the whole range, wins over the test RAM, and a write queries the mirroring. -/
theorem test_cartridge_rows_cartridge :
    exec (.cartridge4020 0x4020 .peek) { testRam with cart := some ⟨7⟩ } =
      .next { testRam with cart := some ⟨7⟩, resp := .byte (Config.cartPeek ⟨7⟩ 0x4020) } ∧
    exec (.cartridge6000 0x6000 (.write 0x01)) { State.reset with cart := some ⟨7⟩ } =
      .next { State.reset with
        ext := 0x01,
        cart := some (Config.cartWrite ⟨7⟩ 0x6000 0x01),
        ppu := { resetPpu with mirroring := Config.cartMirroring (Config.cartWrite ⟨7⟩ 0x6000 0x01) } } :=
  ⟨rfl, rfl⟩

/-- V7: before the warm-up is over a control write only puts its byte in `ext`; after it, it reaches the PPU. -/
theorem test_ppureg0 :
    exec (.ppureg0 0x2000 (.write 0x80)) (statusUp 0) = .next { statusUp 0 with ext := 0x80 } ∧
    after (fun t => t.ppu.nmiEnable) (exec (.ppureg0 0x2008 (.write 0x00)) { warm with
      ppu := { warm.ppu with nmiEnable := true } }) = some false := by
  have bit : ∀ n : Fin 8, (0x00 : Byte).getLsbD n.val = false := by decide
  exact ⟨rfl, congrArg some (bit Config.nmiEnableBit)⟩

/-- V7: a write to the status register does not clear the flag. -/
theorem test_ppureg2_write :
    after (fun t => t.ppu.vblankFlag) (exec (.ppureg2 0x2002 (.write 0x00)) (statusUp 0)) = some true := by decide

/-- R175's example. -/
theorem test_ppureg5 :
    after (fun t => t.ppu.rest) (exec (.ppureg5 0x2005 (.write 0x10)) State.reset) =
      some (Config.ppuRegWrite resetPpu 5 0x10) := rfl

/-! ### The VBlank machine -/

/-- P6 case A: one cycle early the read changes nothing but the time stamp. -/
theorem test_read_before_the_window :
    after (fun t => (t.resp, t.ppu.vblState, t.ppu.lastReadCycle)) (exec (.read 0x2002) (pendingAt 4999)) =
      some (.byte 0x00, .setPending 5000, 4999) := by decide

/-- P6 case B. -/
theorem test_read_in_the_window :
    after (fun t => (t.resp, t.ppu)) (exec (.read 0x2002) (pendingAt 5000)) =
      some (.byte 0x00, cancelled.ppu) := by decide

/-- P6 case C: a peek in the window records nothing. -/
theorem test_peek_in_the_window :
    after (fun t => (t.resp, t.ppu.vblState)) (exec (.peek 0x2002) (pendingAt 5000)) =
      some (.byte 0x00, .setPending 5000) := by decide

/-- The environment moves between the two accesses of a 16-bit read (D20): the set falls after the first access and
the second, one cycle later, finds `Active` and not the race window. -/
theorem test_move_inside_read16 :
    after (fun t => (t.ppu.vblState, t.ppu.preventSetCycle, t.mid))
        (exec (.read16 0x2001) { pendingAt 5000 with mid := [.setDue, .clock 5001] }) =
      some (.clear, none, []) := by decide

/-- D14: within the cycle of the set the read comes first, inside an operation too: the set waits, and the second read
cancels it. -/
theorem test_set_waits_for_the_second_read :
    after (fun t => (t.ppu.vblState, t.ppu.preventSetCycle, t.mid))
        (exec (.read16 0x2001) { pendingAt 5000 with mid := [.setDue] }) =
      some (.suppressedThisFrame, some 5000, [.setDue]) := by decide

/-- D14: after the set of its cycle a READ is refused, on the PPU's row too; a PEEK (R211) and a control write (R204
item 5) are not. -/
theorem test_requests_after_the_set :
    refusal (step { justSet with inbox := [.word .req 0x0200200 []] }) = some .requestAfterSet ∧
    refusal (step { justSet with inbox := [.word .ppureg 0x2002 []] }) = some .requestAfterSet ∧
    after (fun t => t.resp) (step { justSet with inbox := [.word .req 0x2200200 []] }) = some (.byte 0x80) ∧
    after (fun t => t.ext) (step { justSet with inbox := [.word .req 0x12000FF []] }) = some 0xFF ∧
    after (fun t => t.resp) (step { justSet with masterCycle := 5001, inbox := [.word .req 0x0200200 []] }) =
      some (.byte 0x80) := by decide

/-- R185: a frame has one `Schedule`: after a status read left the machine in `Clear` a second one is out of turn,
until the frame boundary. -/
theorem test_one_schedule_per_frame :
    refusal (step { State.reset with timer := ⟨.vblank, some 0⟩, inbox := [.event (.schedule 9)] }) =
      some .scheduleOutOfTurn ∧
    after (fun t => t.timer.phase) (step { State.reset with
      timer := ⟨.over, some 0⟩, inbox := [.event .frameBoundary] }) = some .start := by decide

/-- A move the environment has no step for stays, and so does what follows it. -/
theorem test_refused_move_waits :
    after (fun t => (t.ppu.vblState, t.mid))
        (exec (.read16 0x4018) { pendingAt 4999 with mid := [.setDue, .warmupDone] }) =
      some (.setPending 5000, [.setDue, .warmupDone]) := by decide

/-! ### Witnesses: for each statement with hypotheses, a state and operands that meet them -/

/-- Every row's first and last address (EncodeThenDecodeGivesTheInstruction). -/
theorem test_witness_wellFormed :
    [Instr.read 0xFFFF, .write 0xFFFF 0xFF, .peek 0, .read16 0xFFFF, .read16bug 0xFFFF, .dummyread 0, .dummywrite 0,
      .reservedOp7, .ram 0x0000 .read, .ram 0x1FFF (.write 0xFF), .ppu 0x2000 .peek, .ppu 0x3FFF .read,
      .apu4000 0x4000 .read, .apu4000 0x400F .read, .apu4010 0x4010 .read, .apu4010 0x4013 .read, .oamDma 0x4014 .read,
      .apuStatus 0x4015 .read, .controller 0x4016 .read, .controller 0x4017 .read, .openBus 0x4018 .read,
      .openBus 0x401F .read].all Instr.wellFormed = true ∧
    [Instr.cartridge4020 0x4020 .read, .cartridge4020 0x403F .read, .cartridge4040 0x4040 .read,
      .cartridge4040 0x407F .read, .cartridge4080 0x4080 .read, .cartridge4080 0x40FF .read,
      .cartridge4100 0x4100 .read, .cartridge4100 0x41FF .read, .cartridge4200 0x4200 .read,
      .cartridge4200 0x43FF .read, .cartridge4400 0x4400 .read, .cartridge4400 0x47FF .read,
      .cartridge4800 0x4800 .read, .cartridge4800 0x4FFF .read, .cartridge5000 0x5000 .read,
      .cartridge5000 0x5FFF .read, .cartridge6000 0x6000 .read, .cartridge6000 0x7FFF .read,
      .cartridge8000 0x8000 .read, .cartridge8000 0xFFFF .read].all Instr.wellFormed = true ∧
    [Instr.ppureg0 0x2000 .read, .ppureg0 0x3FF8 .read, .ppureg1 0x2001 .read, .ppureg2 0x3FFA .read,
      .ppureg3 0x2003 .read, .ppureg4 0x3FFC .read, .ppureg5 0x2005 .read, .ppureg6 0x3FFE .read,
      .ppureg7 0x2007 .read, .ppureg7 0x3FFF .read].all Instr.wellFormed = true := by decide

/-- DecodedInstructionsAreWellFormed, one word per format. -/
theorem test_witness_decoded :
    decode .req 0x0000000 = .ok (.read 0) ∧ decode .addr 0x8000 = .ok (.cartridge8000 0x8000 .read) ∧
    decode .ppureg 0x2000 = .ok (.ppureg0 0x2000 .read) := by decide

/-- DataFieldIsIgnoredExceptByWrite, the op codes beside 1. -/
theorem test_witness_data_ignored : (0 : BitVec 3) ≠ 1 ∧ (2 : BitVec 3) ≠ 1 ∧ (7 : BitVec 3) ≠ 1 := by decide

/-- StepRunsTheDecodedRequest: admitted before any set and after it, and refused after it. PlacedWordRunsNext: both
ways to be admitted. -/
theorem test_witness_step_runs :
    (∃ s : State, s.inbox = .word .req 0x0401800 [.warmupDone] :: [.event .setDue] ∧
      s.timer.setDueAt ≠ some s.masterCycle) ∧
    decode .req 0x0401800 = .ok (.read 0x4018) ∧ followsSet (.read 0x4018) = false ∧
    justSet.timer.setDueAt = some justSet.masterCycle ∧ followsSet (.peek 0x2002) = true ∧
    followsSet (.write 0x3FF8 0xFF) = true ∧ followsSet (.ppureg0 0x2000 (.write 0xFF)) = true ∧
    followsSet (.write 0x2001 0xFF) = false :=
  ⟨⟨{ State.reset with inbox := [.word .req 0x0401800 [.warmupDone], .event .setDue] }, rfl, by decide⟩,
    by decide, rfl, rfl, rfl, by decide, by decide, by decide⟩

/-- PlacedWordRunsNext, a row of each width. -/
theorem test_witness_placed :
    decodeTableWord 32 0x1000001 = some (.write 0x0000 0x01) ∧
    decodeTableWord 16 0x1FFF = some (.ram 0x1FFF .read) ∧
    State.reset.timer.setDueAt ≠ some State.reset.masterCycle := by decide

/-- StepTakesTheNextInput, its three clauses. -/
theorem test_witness_next_input :
    State.reset.inbox = [] ∧ (∃ s : State, s.inbox = .event .setDue :: []) ∧
    (∃ s : State, s.inbox = .word .req 0x8000000 [] :: []) ∧ decode .req 0x8000000 = .error .strayBits :=
  ⟨rfl, ⟨{ State.reset with inbox := [.event .setDue] }, rfl⟩,
    ⟨{ State.reset with inbox := [.word .req 0x8000000 []] }, rfl⟩, by decide⟩

/-- CartridgeRowsFollowWhatServesThem: a cartridge; the test RAM at both ends; nothing, below it and without it. -/
theorem test_witness_cartridge_rows :
    ({ testRam with cart := some ⟨7⟩ } : State).cart = some ⟨7⟩ ∧
    (testRam.cart = none ∧ testRam.tram = some [(0x7FFD, 0x80)] ∧ 0x8000 ≤ (0x8000 : Addr).toNat ∧
      0x8000 ≤ (0xFFFF : Addr).toNat) ∧
    (testRam.cart = none ∧ (0x7FFF : Addr).toNat < 0x8000) ∧
    (State.reset.cart = none ∧ State.reset.tram = none) := by decide

/-- ControlRegisterWriteNeedsWarmup, both clauses. -/
theorem test_witness_warmup : State.reset.ppu.warmupComplete = false ∧ warm.ppu.warmupComplete = true := by decide

/-- StatusReadsClearAndPeeksDoNot, the first and last image of register 2. -/
theorem test_witness_status_images :
    (0x2000 ≤ (0x2002 : Addr).toNat ∧ (0x2002 : Addr).toNat ≤ 0x3FFF ∧ (0x2002 : Addr).toNat % 8 = 2) ∧
    (0x2000 ≤ (0x3FFA : Addr).toNat ∧ (0x3FFA : Addr).toNat ≤ 0x3FFF ∧ (0x3FFA : Addr).toNat % 8 = 2) := by decide

/-- ReadOfRamChangesOnlyTheLatch, WriteOfRamStoresOneByte, DummyWriteOfRamKeepsTheByte, ReadModifyWriteSequence: both
ends of RAM. AllMirrorsReadTheWrittenByte: the same offset in the first and last mirror. -/
theorem test_witness_ram_addresses :
    (0x0000 : Addr).toNat < 0x2000 ∧ (0x1FFF : Addr).toNat < 0x2000 ∧
    (0x07FF : Addr).toNat < 0x2000 ∧ (0x07FF : Addr).toNat % 2048 = (0x1FFF : Addr).toNat % 2048 := by decide

/-- ApuStatusReadDoesNotReachTheOpenBus, UnmappedReadsReturnTheOpenBus, WrittenByteIsReadBackFromUnmapped: the
boundaries of what nothing serves. -/
theorem test_witness_unmapped :
    State.reset.unmapped 0x4018 = true ∧ State.reset.unmapped 0x401F = true ∧ State.reset.unmapped 0x4020 = true ∧
    State.reset.unmapped 0xFFFF = true ∧ testRam.unmapped 0x7FFF = true ∧ testRam.unmapped 0x8000 = false ∧
    State.reset.unmapped 0x4017 = false := by decide

/-- RamKeepsAByteUntilWrittenAgain: a read, a write elsewhere and a DUMMYWRITE of the byte between. -/
theorem test_witness_ram_keeps : ∃ t u, exec (.write 0x0000 0x01) State.reset = .next t ∧
    (∀ i ∈ [Instr.read 0x0800, .write 0x0001 0x02, .write 0x2000 0x03, .dummywrite 0x1800],
      writesRamAt ((0x0000 : Addr).toNat % 2048) i = false) ∧
    execAll [Instr.read 0x0800, .write 0x0001 0x02, .write 0x2000 0x03, .dummywrite 0x1800] t = .next u :=
  ⟨_, _, rfl, by decide, rfl⟩

/-- TestRamReadsBackWhatWasWritten, both ends, the same address and another. -/
theorem test_witness_testRam :
    testRam.cart = none ∧ testRam.tram.isSome = true ∧ 0x8000 ≤ (0x8000 : Addr).toNat ∧
    0x8000 ≤ (0xFFFF : Addr).toNat ∧ (0xFFFF : Addr) ≠ 0x8000 := by decide

/-- DummyWriteWritesBackTheFetchedByte, both capabilities. -/
theorem test_witness_dwReadMode :
    State.reset.dwReadMode = .peek ∧ ({ State.reset with dwReadMode := .readNoLatch } : State).dwReadMode =
      .readNoLatch := by decide

/-- EveryOperationCompletes. -/
theorem test_witness_operation : Instr.read 0x0000 ≠ .reservedOp7 ∧ Instr.ppureg7 0x2007 .peek ≠ .reservedOp7 := by
  decide

/-- OnlyReadsOfApuStatusWriteInt: an instruction that goes on. -/
theorem test_witness_goes_on : (∃ t, exec (.read16bug 0x4014) State.reset = .next t) ∧
    ∃ t, exec (.apuStatus 0x4015 .read) State.reset = .next t :=
  ⟨⟨_, rfl⟩, ⟨_, rfl⟩⟩

/-- ObserverSeesEachAccess, with a history. -/
theorem test_witness_observer :
    ({ State.reset with observer := some [⟨0x0010, 0x40, true⟩] } : State).observer =
      some [⟨0x0010, 0x40, true⟩] := by decide

/-- IntIsSeenOnlyAtTheApu, on both sides of the APU's addresses. -/
theorem test_witness_not_apu :
    (rangeOf 0x3FFF).handler ≠ .apu ∧ (rangeOf 0x4014).handler ≠ .apu ∧ (rangeOf 0x4016).handler ≠ .apu := by decide

/-- OnlyControlWritesRaiseTheNmiLine: each of the four writes raises a low line, whatever the enable bit is, with the
byte `0xFF` (the DUMMYWRITE fetches it from the latch). -/
theorem test_witness_nmi_rises : warm.mid = [] ∧ nmiLine warm.ppu = false ∧
    ∀ i ∈ [Instr.write 0x2000 0xFF, .write 0x3FF8 0xFF, .dummywrite 0x2000, .ppu 0x2008 (.write 0xFF),
      .ppureg0 0x2000 (.write 0xFF)], after (fun t => nmiLine t.ppu) (exec i warm) = some true := by
  have bit : ∀ n : Fin 8, (0xFF : Byte).getLsbD n.val = true := by decide
  refine ⟨rfl, rfl, fun i hi => ?_⟩
  simp only [List.mem_cons, List.not_mem_nil, or_false] at hi
  rcases hi with rfl | rfl | rfl | rfl | rfl <;> exact congrArg some (bit Config.nmiEnableBit)

/-- EnvironmentMovesFollowTheRules: a state for each clause, a scheduled cycle at `master_cycle`, a clock up to the
due cycle. -/
theorem test_witness_moves :
    State.reset.dueCycle = none ∧ (pendingAt 4999).dueCycle = some 5000 ∧ cancelled.dueCycle = some 5000 ∧
    (pendingAt 4999).masterCycle.toNat ≤ (5000 : Cycle).toNat ∧
    (State.reset.timer.phase = .start ∧ State.reset.ppu.vblState = .clear ∧
      State.reset.masterCycle.toNat ≤ (0 : Cycle).toNat) ∧
    ((pendingAt 5000).timer.phase = .scheduled ∧
      (pendingAt 5000).ppu.vblState = .setPending (pendingAt 5000).masterCycle) ∧
    (cancelled.timer.phase = .scheduled ∧ cancelled.ppu.vblState = .suppressedThisFrame ∧
      cancelled.ppu.preventSetCycle = some cancelled.masterCycle) ∧
    (justSet.timer.phase = .vblank ∧ justSet.ppu.vblState = .active) ∧
    ({ State.reset with cart := some ⟨7⟩ } : State).cart = some ⟨7⟩ := by decide

/-- The clauses of EnvironmentMovesFollowTheRules that need `Clear` late in a frame, or a cancelled frame at its end. -/
theorem test_witness_moves_late :
    (∀ p ∈ [FramePhase.scheduled, .vblank, .over],
      ({ State.reset with timer := ⟨p, none⟩ } : State).ppu.vblState = .clear ∧
      ({ cancelled with timer := ⟨p, none⟩ } : State).ppu.vblState = .suppressedThisFrame) := by decide

/-- EventsOutOfTurnAreRefused: a state for each clause, a set at another cycle than its own, a clock one past the due
cycle and one below `master_cycle`. -/
theorem test_witness_out_of_turn :
    (pendingAt 5000).timer.phase ≠ .start ∧ (pendingAt 5000).ppu.vblState ≠ .clear ∧
    (({ State.reset with masterCycle := 5 } : State).timer.phase = .start ∧
      (4 : Cycle).toNat < ({ State.reset with masterCycle := 5 } : State).masterCycle.toNat) ∧
    State.reset.timer.phase ≠ .scheduled ∧ State.reset.timer.phase ≠ .vblank ∧ State.reset.timer.phase ≠ .over ∧
    ((pendingAt 4999).ppu.vblState = .setPending 5000 ∧ (5000 : Cycle) ≠ (pendingAt 4999).masterCycle) ∧
    (cancelled.ppu.vblState = .suppressedThisFrame ∧
      ({ cancelled with masterCycle := 4999 } : State).ppu.preventSetCycle ≠ some 4999) ∧
    justSet.ppu.vblState = .active ∧
    ((pendingAt 5000).masterCycle.toNat ≤ (5001 : Cycle).toNat ∧ (pendingAt 5000).dueCycle = some 5000 ∧
      (5000 : Cycle).toNat < (5001 : Cycle).toNat ∧ (4999 : Cycle).toNat < (pendingAt 5000).masterCycle.toNat) ∧
    State.reset.cart = none := by decide

/-- The states of P6 are states of the invariant. -/
theorem test_pending_inv : (pendingAt 5000).Inv where
  ram := by simp [Memory.wf, pendingAt, State.reset]
  tram := by simp [pendingAt, State.reset]
  ppu := ⟨by decide, by decide, by simp [pendingAt, State.reset], by decide⟩
  timer := ⟨fun _ _ => rfl, by decide, by decide, by simp [pendingAt, State.reset, resetPpu],
    by simp [pendingAt, State.reset]⟩

/-- RaceWindowReadCancelsTheSet: the first and last image of register 2; a request after the set; a state before it. -/
theorem test_witness_race_window :
    (rangeOf 0x2002 = .ppu ∧ (0x2002 : Addr).toNat % 8 = 2 ∧ rangeOf 0x3FFA = .ppu ∧ (0x3FFA : Addr).toNat % 8 = 2 ∧
      (pendingAt 5000).Inv ∧ (pendingAt 5000).ppu.vblState = .setPending (pendingAt 5000).masterCycle) ∧
    (justSet.timer.setDueAt = some justSet.masterCycle ∧
      ∃ s : State, s.inbox = .word .req (reqWord 0 0x2002 0) [] :: [] ∧ s.timer.setDueAt = some s.masterCycle) ∧
    (pendingAt 5000).timer.setDueAt ≠ some (pendingAt 5000).masterCycle :=
  ⟨⟨by decide, by decide, by decide, by decide, test_pending_inv, by decide⟩,
    ⟨rfl, { justSet with inbox := [.word .req (reqWord 0 0x2002 0) []] }, rfl, rfl⟩, by decide⟩

/-- CancelledFrameStaysDark: a control write and the late `SetDue` still to come. -/
theorem test_witness_dark : ∃ s t : State,
    s.inbox = [.word .req 0x12000FF [.setDue], .event .setDue, .event .endOfVBlank] ∧ s.Dark ∧ step s = .next t :=
  ⟨{ cancelled with inbox := [.word .req 0x12000FF [.setDue], .event .setDue, .event .endOfVBlank] }, _, rfl,
    ⟨rfl, rfl, by decide⟩, rfl⟩

/-- StepKeepsTheInvariant, MasterCycleNeverDecreases, ConfigurationIsFixed: a step from a state of the invariant, with
a cartridge attached. -/
theorem test_witness_inv_step : ∃ s t : State, s.Inv ∧ s.cart.isSome = true ∧ step s = .next t ∧
    s.inbox = [.event (.clock 1)] :=
  ⟨{ State.reset with cart := some ⟨7⟩, inbox := [.event (.clock 1)] }, _,
    ⟨by simp [Memory.wf, State.reset], by simp [State.reset],
      ⟨by decide, by decide, by simp [State.reset, resetPpu], by decide⟩,
      ⟨by simp [State.reset, resetPpu], by decide, by decide, by simp [State.reset, resetPpu],
        by simp [State.reset, resetTimer]⟩⟩, rfl, rfl, rfl⟩

/-- MasterCycleNeverDecreases, its second clause. -/
theorem test_witness_no_moves : State.reset.mid = [] ∧ ∃ t, exec (.read16 0x2002) State.reset = .next t :=
  ⟨rfl, _, rfl⟩

/-- AttachingACartridgeChangesNothingElse, both clauses. -/
theorem test_witness_attach :
    (∃ s : State, s.inbox = .attach ⟨7⟩ :: [] ∧ s.cart = none) ∧
    (∃ s : State, s.inbox = .attach ⟨8⟩ :: [] ∧ s.cart.isSome = true) :=
  ⟨⟨{ State.reset with inbox := [.attach ⟨7⟩] }, rfl, rfl⟩,
    ⟨{ State.reset with cart := some ⟨7⟩, inbox := [.attach ⟨8⟩] }, rfl, rfl⟩⟩

/-- ConstructionGivesTheInitialState: V9's wrong lengths, the right one, and no slice. -/
theorem test_witness_construction :
    (List.replicate 32767 (0 : Byte)).length ≠ 32768 ∧ (List.replicate 32769 (0 : Byte)).length ≠ 32768 ∧
    ([] : List Byte).length ≠ 32768 ∧ (List.replicate 32768 (0 : Byte)).length = 32768 ∧
    resetArgs.tramSlice = none :=
  ⟨by rw [List.length_replicate]; decide, by rw [List.length_replicate]; decide, by decide, List.length_replicate,
    rfl⟩

/-- `State.reset` is what a construction with the named arguments gives. -/
theorem test_reset_is_constructed : construct resetArgs = .next State.reset := rfl

end Sys2Proof.Tests
end

namespace Sys2Proof.Machine

/-! ### The set of operations is closed (`30_encoding.md` R80) -/

/-- Two instructions the block cannot tell apart: admitted alike after a `SetDue`, and with one outcome in every
state. -/
def ActsAs (i j : Instr) : Prop := followsSet j = followsSet i ∧ ∀ s : State, exec i s = exec j s

/-! #### The requests READ, WRITE and PEEK -/

theorem requestOf_format (c : Capability) (a : Addr) : (requestOf c a).format = .req := by
  cases c <;> rfl

/-- READ, WRITE and PEEK are one capability of the address's own range (`40_dispatch.md` R104). -/
theorem exec_requestOf (c : Capability) (a : Addr) (s : State) :
    exec (requestOf c a) s = .next (operate (rangeOf a) a c s) := by
  cases c <;> rfl

theorem followsSet_requestOf (c : Capability) (a : Addr) :
    followsSet (requestOf c a) = accessFollowsSet (rangeOf a) a c := by
  cases c <;> rfl

/-! #### The blocks of R74 -/

/-- Some block claims every address (R75). -/
theorem exists_addrRow_claims (a : Addr) : ∃ r ∈ addrRows, r.claims a = true := by
  have covered : true ∈ addrRows.map (fun r => r.claims a) := by
    rw [addrRows_claims]
    simp only [List.mem_cons, List.not_mem_nil, or_false, Bool.true_eq, decide_eq_true_eq]
    omega
  exact List.mem_map.mp covered

/-- The block that claims an address has the address's range (R70, R75): block by block, its bounds lie within those
of its range. -/
theorem rangeOf_of_addrRow_claims {r : AddrRow} (hr : r ∈ addrRows) {a : Addr} (ha : r.claims a = true) :
    rangeOf a = r.range := by
  have hlt := a.isLt
  have bounds : ∀ p ∈ (addrRows.map AddrRow.range).zip (addrRows.map (fun r => r.claims a)),
      p.2 = true → rangeOf a = p.1 := by
    rw [addrRows_claims]
    simp only [addrRows, List.cons_append, List.nil_append, List.map_cons, List.map_nil, List.zip_cons_cons,
      List.zip_nil_right, List.forall_mem_cons, decide_eq_true_eq]
    and_intros <;> grind [rangeOf]
  rw [List.zip_map'] at bounds
  exact bounds _ (List.mem_map_of_mem hr) ha

/-- An `ADDR` row is one capability of its range's handler, with the dispatcher around it. -/
theorem addrRow_meaning {r : AddrRow} (hr : r ∈ addrRows) (a : Addr) (c : Capability) :
    (∀ s, exec (r.toInstr a c) s = .next (operate r.range a c s)) ∧
    followsSet (r.toInstr a c) = accessFollowsSet r.range a c := by
  revert r
  simp only [addrRows, List.cons_append, List.nil_append, List.forall_mem_cons, List.not_mem_nil, false_implies,
    implies_true, and_true]
  and_intros <;> intros <;> rfl

/-- At an address the block claims, its row is the request. -/
theorem addrRow_actsAs_request {r : AddrRow} (hr : r ∈ addrRows) {a : Addr} (ha : r.claims a = true)
    (c : Capability) : ActsAs (r.toInstr a c) (requestOf c a) := by
  obtain ⟨runs, follows⟩ := addrRow_meaning hr a c
  have range := rangeOf_of_addrRow_claims hr ha
  exact ⟨by rw [followsSet_requestOf, follows, range], fun s => by rw [exec_requestOf, runs, range]⟩

/-! #### The registers of R78 -/

/-- The row that claims an address lies in the PPU range and has the address's register (R78). -/
theorem range_and_reg_of_ppuRegRow_claims {r : AddrRow} (hr : r ∈ ppuRegRows) {a : Addr}
    (ha : r.claims a = true) : rangeOf a = .ppu ∧ ppuReg a = ppuReg r.mtch := by
  have images : ∀ p ∈ (ppuRegRows.map AddrRow.mtch).zip (ppuRegRows.map (fun r => r.claims a)),
      p.2 = true → rangeOf a = .ppu ∧ ppuReg a = ppuReg p.1 := by
    rw [ppuRegRows_claims]
    simp only [ppuRegRows, List.map_cons, List.map_nil, List.zip_cons_cons, List.zip_nil_right,
      List.forall_mem_cons, decide_eq_true_eq, ← BitVec.toNat_inj (x := ppuReg a), ppuReg_toNat]
    and_intros <;> grind [rangeOf]
  rw [List.zip_map'] at images
  exact images _ (List.mem_map_of_mem hr) ha

/-- A `PPUREG` row is one capability of its register, the one in the low bits of its match. -/
theorem ppuRegRow_meaning {r : AddrRow} (hr : r ∈ ppuRegRows) (a : Addr) (c : Capability) :
    (∀ s, exec (r.toInstr a c) s = .next (operatePpuReg (ppuReg r.mtch) a c s)) ∧
    followsSet (r.toInstr a c) = accessFollowsSet .ppu r.mtch c := by
  revert r
  simp only [ppuRegRows, List.forall_mem_cons, List.not_mem_nil, false_implies,
    implies_true, and_true]
  and_intros <;> intros <;> rfl

/-- Whether an access follows a `SetDue` depends on the address only by its register. -/
theorem accessFollowsSet_of_ppuReg_eq {a b : Addr} (h : ppuReg a = ppuReg b) (r : Range) (c : Capability) :
    accessFollowsSet r a c = accessFollowsSet r b c := by
  cases c <;> simp [accessFollowsSet, controlAddr, h]

/-- At an image of the register its row is the request. -/
theorem ppuRegRow_actsAs_request {r : AddrRow} (hr : r ∈ ppuRegRows) {a : Addr} (ha : r.claims a = true)
    (c : Capability) : ActsAs (r.toInstr a c) (requestOf c a) := by
  obtain ⟨runs, follows⟩ := ppuRegRow_meaning hr a c
  obtain ⟨range, reg⟩ := range_and_reg_of_ppuRegRow_claims hr ha
  refine ⟨?_, fun s => ?_⟩
  · rw [followsSet_requestOf, follows, range, accessFollowsSet_of_ppuReg_eq reg]
  · rw [exec_requestOf, runs, range, operatePpuReg_eq reg]

/-! #### The decoders, inverted -/

/-- Every operation a request word spells is an instruction of the request port. -/
theorem format_of_decodeReq {w : PortWord} {i : Instr} (h : decodeReq w = .ok i) : i.format = .req := by
  unfold decodeReq at h
  split at h
  · cases h
  · cases h
    split <;> rfl

/-- With a capability an `ADDR` word is the row of the block that claims its address. -/
theorem decodeAddr_of_capability {w : PortWord} {c : Capability} (hc : decodeCapability w = .ok c) :
    ∃ r ∈ addrRows, r.claims (field 0 16 w) = true ∧ decodeAddr w = .ok (r.toInstr (field 0 16 w) c) := by
  cases hf : addrRows.find? (fun r => r.claims (field 0 16 w)) with
  | some r =>
    exact ⟨r, List.mem_of_find?_eq_some hf, by simpa using List.find?_some hf, by simp only [decodeAddr, hc, hf]⟩
  | none =>
    obtain ⟨r, hr, claims⟩ := exists_addrRow_claims (field 0 16 w)
    exact absurd claims (List.find?_eq_none.mp hf r hr)

theorem decodeAddr_cases {w : PortWord} {i : Instr} (h : decodeAddr w = .ok i) :
    ∃ r ∈ addrRows, ∃ a c, r.claims a = true ∧ i = r.toInstr a c := by
  cases hc : decodeCapability w with
  | error e => simp only [decodeAddr, hc, reduceCtorEq] at h
  | ok c =>
    obtain ⟨r, hr, claims, decoded⟩ := decodeAddr_of_capability hc
    exact ⟨r, hr, field 0 16 w, c, claims, Except.ok.inj (h.symm.trans decoded)⟩

theorem decodePpuReg_cases {w : PortWord} {i : Instr} (h : decodePpuReg w = .ok i) :
    ∃ r ∈ ppuRegRows, ∃ a c, r.claims a = true ∧ i = r.toInstr a c := by
  cases hc : decodeCapability w with
  | error e => simp only [decodePpuReg, hc, reduceCtorEq] at h
  | ok c =>
    cases hf : ppuRegRows.find? (fun r => r.claims (field 0 16 w)) with
    | none => simp only [decodePpuReg, hc, hf, reduceCtorEq] at h
    | some r =>
      simp only [decodePpuReg, hc, hf, Except.ok.injEq] at h
      exact ⟨r, List.mem_of_find?_eq_some hf, field 0 16 w, c, by simpa using List.find?_some hf, h.symm⟩

/-- The `ADDR` word of an address and a capability acts as the request that uses the capability there. -/
theorem decode_addrWord_actsAs_request (a : Addr) (c : Capability) :
    ∃ i, decode .addr (addrWord a c) = .ok i ∧ ActsAs i (requestOf c a) := by
  obtain ⟨r, hr, claims, decoded⟩ := decodeAddr_of_capability (decodeCapability_addrWord a c)
  rw [addrWord_addr] at claims decoded
  exact ⟨r.toInstr a c, decoded, addrRow_actsAs_request hr claims c⟩

/-- A decoded word of any format acts as an instruction of the request port: a request word's as itself, a row's as
READ, WRITE or PEEK. -/
theorem decode_actsAs_request {f : Format} {w : PortWord} {i : Instr} (h : decode f w = .ok i) :
    ∃ j : Instr, j.format = .req ∧ ActsAs i j := by
  cases f with
  | req => exact ⟨i, format_of_decodeReq h, rfl, fun _ => rfl⟩
  | addr =>
    obtain ⟨r, hr, a, c, claims, rfl⟩ := decodeAddr_cases h
    exact ⟨requestOf c a, requestOf_format c a, addrRow_actsAs_request hr claims c⟩
  | ppureg =>
    obtain ⟨r, hr, a, c, claims, rfl⟩ := decodePpuReg_cases h
    exact ⟨requestOf c a, requestOf_format c a, ppuRegRow_actsAs_request hr claims c⟩

/-- Settles O25: a row that decodes claims its address, so its range is the address's own, and the row is the request
dispatched by that range. -/
theorem everyWordIsOneOfTheOperations : Obligations.EveryWordIsOneOfTheOperations := by
  refine ⟨fun a c => ?_, fun f w i h => decode_actsAs_request h⟩
  obtain ⟨i, decoded, -, runs⟩ := decode_addrWord_actsAs_request a c
  exact ⟨i, decoded, runs⟩

end Sys2Proof.Machine

namespace Sys2Proof.Machine

/-! ### Predicates every part of a step keeps -/

/-- Everything a step is made of keeps `P`: the handlers, the latch, the observer and the response port, the moves of
the environment, the host action, and the two fields that hold what is still to come. -/
structure Preserved (P : State → Prop) : Prop where
  hRead : ∀ h a s, P s → P (hRead h a s).2
  hWrite : ∀ h a v s, P s → P (hWrite h a v s)
  setExt : ∀ s x, P s → P (s.setExt x)
  setInt : ∀ s x, P s → P (s.setInt x)
  observe : ∀ s a x w, P s → P (s.observe a x w)
  setResp : ∀ s x, P s → P (s.setResp x)
  setInbox : ∀ s x, P s → P (s.setInbox x)
  setMid : ∀ s x, P s → P (s.setMid x)
  deliver : ∀ e s t, P s → deliver e s = .ok t → P t
  attach : ∀ s c, s.cart = none → P s → P (s.setCart (some c))

theorem Preserved.between {P : State → Prop} (hP : Preserved P) (late : Bool) (s : State) (hs : P s) :
    P (between late s) :=
  deliverAll_keeps hP.deliver hP.setMid late s.mid hs

theorem Preserved.exec {P : State → Prop} (hP : Preserved P) {i : Instr} {s t : State} (hs : P s)
    (h : exec i s = .next t) : P t :=
  exec_keeps hP.hRead hP.hWrite hP.setExt hP.setInt hP.observe hP.setResp hP.between hs h

/-- What every part of a step keeps, the step keeps. -/
theorem Preserved.step {P : State → Prop} (hP : Preserved P) {s t : State} (hs : P s) (h : step s = .next t) :
    P t := by
  obtain ⟨-, rfl⟩ | ⟨_, _, es, rest, _, u, -, -, -, run, rfl⟩ | ⟨_, rest, -, run⟩ | ⟨c, rest, -, absent, rfl⟩ :=
    step_cases h
  · exact hs
  · have taken : P { s with inbox := rest, mid := es } := hP.setMid _ es (hP.setInbox _ rest hs)
    exact hP.setMid _ _ (hP.setInbox _ _ (hP.exec taken run))
  · exact hP.deliver _ _ _ (hP.setInbox _ rest hs) run
  · exact hP.setInbox _ rest (hP.attach _ c absent hs)

/-! ### The invariant -/

/-- The fields of the PPU the VBlank machine lives in are the same. -/
structure SameVblank (p q : Ppu) : Prop where
  vblankFlag : q.vblankFlag = p.vblankFlag
  lastReadCycle : q.lastReadCycle = p.lastReadCycle
  preventSetCycle : q.preventSetCycle = p.preventSetCycle
  vblState : q.vblState = p.vblState

theorem PpuCoherent.of_sameVblank {now : Cycle} {p q : Ppu} (h : PpuCoherent now p) (same : SameVblank p q) :
    PpuCoherent now q where
  flag := by rw [same.vblankFlag, same.vblState]; exact h.flag
  marker := by rw [same.preventSetCycle, same.vblState]; exact h.marker
  pending := by rw [same.vblState]; exact h.pending
  lastRead := by rw [same.lastReadCycle]; exact h.lastRead

theorem TimerCoherent.of_sameVblank {now : Cycle} {p q : Ppu} {t : Timer} (h : TimerCoherent now p t)
    (same : SameVblank p q) : TimerCoherent now q t where
  pending := by rw [same.vblState]; exact h.pending
  active := by rw [same.vblState]; exact h.active
  cancelled := by rw [same.vblState]; exact h.cancelled
  due := by rw [same.preventSetCycle]; exact h.due
  delivered := h.delivered

/-- A change of the PPU outside the VBlank machine keeps the invariant. -/
theorem State.Inv.setPpu_of_sameVblank {s : State} (hs : s.Inv) {q : Ppu} (same : SameVblank s.ppu q) :
    (s.setPpu q).Inv :=
  ⟨hs.ram, hs.tram, hs.ppu.of_sameVblank same, hs.timer.of_sameVblank same⟩

theorem controlWrite_sameVblank (v : Byte) (p : Ppu) : SameVblank p (controlWrite v p) := by
  unfold controlWrite
  split <;> exact ⟨rfl, rfl, rfl, rfl⟩

/-- What a status read does to the VBlank machine: it cancels the set pending at this very cycle, ends an active
VBlank, and leaves every other state (`43_ppu_registers.md` R172, R182, R183). -/
theorem statusRead_cases (now : Cycle) (p : Ppu) :
    (p.vblState = .setPending now ∧ (statusRead now p).vblState = .suppressedThisFrame ∧
      (statusRead now p).preventSetCycle = some now) ∨
    (p.vblState = .active ∧ (statusRead now p).vblState = .clear ∧
      (statusRead now p).preventSetCycle = p.preventSetCycle) ∨
    (p.vblState ≠ .active ∧ (statusRead now p).vblState = p.vblState ∧
      (statusRead now p).preventSetCycle = p.preventSetCycle) := by
  unfold statusRead afterStatusRead
  cases hv : p.vblState with
  | setPending c =>
    by_cases hc : now = c
    · exact .inl (by simp [hc])
    · exact .inr <| .inr (by simp [hc, hv])
  | active => exact .inr <| .inl (by simp)
  | clear => exact .inr <| .inr (by simp [hv])
  | suppressedThisFrame => exact .inr <| .inr (by simp [hv])

theorem PpuCoherent.after_statusRead {now : Cycle} {p : Ppu} (h : PpuCoherent now p) :
    PpuCoherent now (statusRead now p) := by
  have flag : (statusRead now p).vblankFlag = false := rfl
  have lastRead : (statusRead now p).lastReadCycle = now := rfl
  have marker := h.marker
  have pending := h.pending
  obtain ⟨old, state, prevent⟩ | ⟨old, state, prevent⟩ | ⟨old, state, prevent⟩ := statusRead_cases now p
  all_goals constructor <;> simp_all

theorem TimerCoherent.after_statusRead {now : Cycle} {p : Ppu} {t : Timer} (h : TimerCoherent now p t) :
    TimerCoherent now (statusRead now p) t := by
  obtain ⟨pending, active, cancelled, due, delivered⟩ := h
  obtain ⟨old, state, prevent⟩ | ⟨old, state, prevent⟩ | ⟨old, state, prevent⟩ := statusRead_cases now p
  all_goals constructor <;> simp_all

theorem State.Inv.setPpu_statusRead {s : State} (hs : s.Inv) : (s.setPpu (statusRead s.masterCycle s.ppu)).Inv :=
  ⟨hs.ram, hs.tram, hs.ppu.after_statusRead, hs.timer.after_statusRead⟩

theorem State.Inv.hRead {s : State} (hs : s.Inv) (h : Handler) (a : Addr) : (hRead h a s).2.Inv := by
  obtain e | ⟨-, -, e⟩ | ⟨_, e⟩ | ⟨_, e⟩ | ⟨_, e⟩ | ⟨_, e⟩ | ⟨_, _, -, e⟩ := hRead_cases h a s <;> rw [e]
  case inr.inl => exact hs.setPpu_statusRead
  case inr.inr.inl => exact hs.setPpu_of_sameVblank ⟨rfl, rfl, rfl, rfl⟩
  all_goals exact ⟨hs.ram, hs.tram, hs.ppu, hs.timer⟩

theorem State.Inv.setRam_write {s : State} (hs : s.Inv) (a : Addr) (v : Byte) :
    (s.setRam (Memory.write .ram s.ram (ramOffset a) v)).Inv :=
  ⟨Memory.wf_write hs.ram (ramOffset_lt a) v, hs.tram, hs.ppu, hs.timer⟩

theorem State.Inv.setTram_write {s : State} (hs : s.Inv) {m : List Host.Cell} (hm : s.tram = some m) (a : Addr)
    (v : Byte) : (s.setTram (some (Memory.write .tram m (tramOffset a) v))).Inv := by
  refine ⟨hs.ram, fun m' hm' => ?_, hs.ppu, hs.timer⟩
  cases hm'
  exact Memory.wf_write (hs.tram m hm) (tramOffset_lt a) v

theorem State.Inv.hWrite {s : State} (hs : s.Inv) (h : Handler) (a : Addr) (v : Byte) : (hWrite h a v s).Inv := by
  obtain e | ⟨-, e⟩ | ⟨-, -, e⟩ | ⟨_, e⟩ | ⟨_, e⟩ | ⟨_, e⟩ | ⟨_, e⟩ | ⟨_, x, -, e⟩ | ⟨_, -, hm, e⟩ :=
    hWrite_cases h a v s <;> rw [e]
  · exact hs
  · exact hs.setRam_write a v
  · exact hs.setPpu_of_sameVblank (controlWrite_sameVblank v s.ppu)
  · exact hs.setPpu_of_sameVblank ⟨rfl, rfl, rfl, rfl⟩
  · exact ⟨hs.ram, hs.tram, hs.ppu, hs.timer⟩
  · exact ⟨hs.ram, hs.tram, hs.ppu, hs.timer⟩
  · exact ⟨hs.ram, hs.tram, hs.ppu, hs.timer⟩
  · have attached : (s.setCart (some x)).Inv := ⟨hs.ram, hs.tram, hs.ppu, hs.timer⟩
    exact attached.setPpu_of_sameVblank ⟨rfl, rfl, rfl, rfl⟩
  · exact hs.setTram_write hm a v

/-- The marker of a coherent state is a set still due, until `SetDue` is delivered (R182, R184, R185). -/
theorem State.Inv.dueCycle_of_preventSetCycle {s : State} (hs : s.Inv) (phase : s.timer.phase = .scheduled)
    {c : Cycle} (hc : s.ppu.preventSetCycle = some c) : s.dueCycle = some c := by
  have state : s.ppu.vblState = .suppressedThisFrame := hs.ppu.marker.mp (by rw [hc]; rfl)
  simp only [State.dueCycle, state, phase, if_true, hc]

/-- The clock keeps the invariant because it does not pass a set that is still due. -/
theorem State.Inv.setMasterCycle {s : State} (hs : s.Inv) {n : Cycle} (le : s.masterCycle.toNat ≤ n.toNat)
    (due : ∀ c, s.dueCycle = some c → n.toNat ≤ c.toNat) : (s.setMasterCycle n).Inv where
  ram := hs.ram
  tram := hs.tram
  ppu := {
    flag := hs.ppu.flag
    marker := hs.ppu.marker
    pending := fun c hc => due c (by simp only [State.dueCycle, show s.ppu.vblState = .setPending c from hc])
    lastRead := hs.ppu.lastRead.trans le }
  timer := {
    pending := hs.timer.pending
    active := hs.timer.active
    cancelled := hs.timer.cancelled
    due := fun phase c hc => due c (hs.dueCycle_of_preventSetCycle phase hc)
    delivered := fun c hc => (hs.timer.delivered c hc).trans le }

/-- Where no set is pending and VBlank is not active, the timer may go to any phase past `SetDue`, and to the start of
a frame if this frame's cancelled set is over. -/
theorem State.Inv.setTimer {s : State} (hs : s.Inv) {t : Timer}
    (quiet : s.ppu.vblState = .clear ∨ s.ppu.vblState = .suppressedThisFrame)
    (start : t.phase = .start → s.ppu.vblState = .clear) (past : t.phase ≠ .scheduled)
    (delivered : ∀ c, t.setDueAt = some c → c.toNat ≤ s.masterCycle.toNat) : (s.setTimer t).Inv where
  ram := hs.ram
  tram := hs.tram
  ppu := hs.ppu
  timer := {
    pending := fun c (state : s.ppu.vblState = .setPending c) => by simp [state] at quiet
    active := fun (state : s.ppu.vblState = .active) => by simp [state] at quiet
    cancelled := fun (state : s.ppu.vblState = .suppressedThisFrame) phase =>
      absurd ((start phase).symm.trans state) nofun
    due := fun phase => absurd phase past
    delivered := delivered }

/-- Every move of the environment keeps the invariant, the timer's events because each comes in its turn of the frame
(R182, R185). -/
theorem State.Inv.deliver {e : Event} {s t : State} (hs : s.Inv) (h : deliver e s = .ok t) : t.Inv := by
  have ⟨flag, marker, pending, lastRead⟩ := hs.ppu
  have ⟨pendingPhase, activePhase, cancelled, due, delivered⟩ := hs.timer
  have same {q : Ppu} (hq : SameVblank s.ppu q) : (s.setPpu q).Inv := hs.setPpu_of_sameVblank hq
  obtain ⟨n, -, le, notPast, rfl⟩ | ⟨c, -, phase, state, le, rfl⟩ | ⟨-, phase, state, rfl⟩ | ⟨-, phase, quiet, rfl⟩ |
    ⟨-, phase, state, rfl⟩ | ⟨-, phase, quiet, rfl⟩ | ⟨-, phase, state, rfl⟩ | ⟨-, phase, state, rfl⟩ | rfl |
    ⟨_, _, rfl⟩ | ⟨_, rfl⟩ | ⟨_, rfl⟩ | ⟨_, rfl⟩ | ⟨_, rfl⟩ | ⟨_, _, -, rfl⟩ := deliver_cases h
  · exact hs.setMasterCycle le notPast
  -- `Schedule`, and `SetDue` of a pending set
  · refine ⟨hs.ram, hs.tram, ?_, ?_⟩ <;> constructor <;> simp_all
  · refine ⟨hs.ram, hs.tram, ?_, ?_⟩ <;> constructor <;> simp_all
  -- `SetDue` with no set
  · exact hs.setTimer (quiet.imp_right And.left) nofun nofun (by simp)
  -- `EndOfVBlank`
  · refine ⟨hs.ram, hs.tram, ?_, ?_⟩ <;> constructor <;> simp_all
  · exact hs.setTimer quiet nofun nofun delivered
  -- `FrameBoundary`
  · refine ⟨hs.ram, hs.tram, ?_, ?_⟩ <;> constructor <;> simp_all
  · exact hs.setTimer (.inl state) (fun _ => state) nofun delivered
  -- the PPU's moves outside the VBlank machine, then the other collaborators'
  · exact same ⟨rfl, rfl, rfl, rfl⟩
  · exact same ⟨rfl, rfl, rfl, rfl⟩
  · exact same ⟨rfl, rfl, rfl, rfl⟩
  all_goals exact ⟨hs.ram, hs.tram, hs.ppu, hs.timer⟩

theorem State.Inv.preserved : Preserved State.Inv where
  hRead h a _ hs := hs.hRead h a
  hWrite h a v _ hs := hs.hWrite h a v
  setExt _ _ hs := ⟨hs.ram, hs.tram, hs.ppu, hs.timer⟩
  setInt _ _ hs := ⟨hs.ram, hs.tram, hs.ppu, hs.timer⟩
  observe _ _ _ _ hs := ⟨hs.ram, hs.tram, hs.ppu, hs.timer⟩
  setResp _ _ hs := ⟨hs.ram, hs.tram, hs.ppu, hs.timer⟩
  setInbox _ _ hs := ⟨hs.ram, hs.tram, hs.ppu, hs.timer⟩
  setMid _ _ hs := ⟨hs.ram, hs.tram, hs.ppu, hs.timer⟩
  deliver _ _ _ hs h := hs.deliver h
  attach _ _ _ hs := ⟨hs.ram, hs.tram, hs.ppu, hs.timer⟩

/-- Settles O54: every part of a step keeps the invariant. -/
theorem stepKeepsTheInvariant : Obligations.StepKeepsTheInvariant :=
  fun _ _ hs h => State.Inv.preserved.step hs h

/-! ### The clock and the configuration -/

theorem deliver_masterCycle_le {e : Event} {s t : State} (h : deliver e s = .ok t) :
    s.masterCycle.toNat ≤ t.masterCycle.toNat := by
  obtain ⟨_, -, le, -, rfl⟩ | ⟨_, -, -, -, -, rfl⟩ | ⟨-, -, -, rfl⟩ | ⟨-, -, -, rfl⟩ | ⟨-, -, -, rfl⟩ | ⟨-, -, -, rfl⟩ |
    ⟨-, -, -, rfl⟩ | ⟨-, -, -, rfl⟩ | rfl | ⟨_, _, rfl⟩ | ⟨_, rfl⟩ | ⟨_, rfl⟩ | ⟨_, rfl⟩ | ⟨_, rfl⟩ | ⟨_, _, -, rfl⟩ :=
    deliver_cases h
  · exact le
  all_goals exact Nat.le_refl _

/-- Every part of a step leaves `master_cycle` at a given value or above. -/
theorem preserved_le_masterCycle (n : Nat) : Preserved (fun t => n ≤ t.masterCycle.toNat) where
  hRead h a s hs := by rwa [(hRead_sameOutside h a s).masterCycle]
  hWrite h a v s hs := by rwa [(hWrite_sameOutside h a v s).masterCycle]
  setExt _ _ hs := hs
  setInt _ _ hs := hs
  observe _ _ _ _ hs := hs
  setResp _ _ hs := hs
  setInbox _ _ hs := hs
  setMid _ _ hs := hs
  deliver _ _ _ hs h := hs.trans (deliver_masterCycle_le h)
  attach _ _ _ hs := hs

/-- Without moves of the environment an instruction leaves the clock, and has none to leave waiting. -/
theorem exec_mid_masterCycle_of_mid_nil {i : Instr} {s t : State} (hs : s.mid = []) (h : exec i s = .next t) :
    t.mid = [] ∧ t.masterCycle = s.masterCycle := by
  refine exec_keeps (P := fun t => t.mid = [] ∧ t.masterCycle = s.masterCycle) (fun h a u hu => ?_)
    (fun h a v u hu => ?_) (fun _ _ hu => hu) (fun _ _ hu => hu) (fun _ _ _ _ hu => hu) (fun _ _ hu => hu)
    (fun late u hu => ?_) ⟨hs, rfl⟩ h
  · rwa [(hRead_sameOutside h a u).mid, (hRead_sameOutside h a u).masterCycle]
  · rwa [(hWrite_sameOutside h a v u).mid, (hWrite_sameOutside h a v u).masterCycle]
  · rwa [between_of_mid_nil hu.1]

/-- Settles O56: of all parts of a step only the clock's move writes `master_cycle`, and never a lower value. -/
theorem masterCycleNeverDecreases : Obligations.MasterCycleNeverDecreases :=
  ⟨fun s _ h => (preserved_le_masterCycle s.masterCycle.toNat).step (Nat.le_refl _) h,
    fun _ _ _ hs h => (exec_mid_masterCycle_of_mid_nil hs h).2⟩

/-- `t` is configured as `s` is, or has a cartridge beside (`10_state.md` R17 to R19, `70_reset_and_hazards.md` R222,
R223). -/
structure SameConfig (s t : State) : Prop where
  cart : s.cart.isSome = true → t.cart.isSome = true
  tram : t.tram.isSome = s.tram.isSome
  observer : t.observer.isSome = s.observer.isSome
  dwReadMode : t.dwReadMode = s.dwReadMode

theorem SameConfig.refl (s : State) : SameConfig s s := ⟨id, rfl, rfl, rfl⟩

theorem SameConfig.trans {s t u : State} (h : SameConfig s t) (h' : SameConfig t u) : SameConfig s u :=
  ⟨h'.cart ∘ h.cart, h'.tram.trans h.tram, h'.observer.trans h.observer, h'.dwReadMode.trans h.dwReadMode⟩

theorem hRead_sameConfig (h : Handler) (a : Addr) (s : State) : SameConfig s (hRead h a s).2 := by
  obtain e | ⟨-, -, e⟩ | ⟨_, e⟩ | ⟨_, e⟩ | ⟨_, e⟩ | ⟨_, e⟩ | ⟨_, _, -, e⟩ := hRead_cases h a s <;> rw [e] <;>
    exact ⟨by simp, rfl, rfl, rfl⟩

theorem hWrite_sameConfig (h : Handler) (a : Addr) (v : Byte) (s : State) : SameConfig s (hWrite h a v s) := by
  obtain e | ⟨-, e⟩ | ⟨-, -, e⟩ | ⟨_, e⟩ | ⟨_, e⟩ | ⟨_, e⟩ | ⟨_, e⟩ | ⟨_, _, -, e⟩ | ⟨_, -, present, e⟩ :=
    hWrite_cases h a v s <;> rw [e]
  case inr.inr.inr.inr.inr.inr.inr.inr => exact ⟨id, by simp [present], rfl, rfl⟩
  all_goals exact ⟨by simp, rfl, rfl, rfl⟩

theorem deliver_sameConfig {e : Event} {s t : State} (h : deliver e s = .ok t) : SameConfig s t := by
  obtain ⟨_, -, -, -, rfl⟩ | ⟨_, -, -, -, -, rfl⟩ | ⟨-, -, -, rfl⟩ | ⟨-, -, -, rfl⟩ | ⟨-, -, -, rfl⟩ | ⟨-, -, -, rfl⟩ |
    ⟨-, -, -, rfl⟩ | ⟨-, -, -, rfl⟩ | rfl | ⟨_, _, rfl⟩ | ⟨_, rfl⟩ | ⟨_, rfl⟩ | ⟨_, rfl⟩ | ⟨_, rfl⟩ | ⟨_, _, -, rfl⟩ :=
    deliver_cases h <;> exact ⟨by simp, rfl, rfl, rfl⟩

theorem observe_sameConfig (s : State) (a : Addr) (x : Byte) (w : Bool) : SameConfig s (s.observe a x w) :=
  ⟨id, rfl, by simp [State.observe], rfl⟩

theorem preserved_sameConfig (s : State) : Preserved (SameConfig s) where
  hRead h a t ht := ht.trans (hRead_sameConfig h a t)
  hWrite h a v t ht := ht.trans (hWrite_sameConfig h a v t)
  setExt _ _ ht := ht.trans ⟨id, rfl, rfl, rfl⟩
  setInt _ _ ht := ht.trans ⟨id, rfl, rfl, rfl⟩
  observe t a x w ht := ht.trans (observe_sameConfig t a x w)
  setResp _ _ ht := ht.trans ⟨id, rfl, rfl, rfl⟩
  setInbox _ _ ht := ht.trans ⟨id, rfl, rfl, rfl⟩
  setMid _ _ ht := ht.trans ⟨id, rfl, rfl, rfl⟩
  deliver _ _ _ ht h := ht.trans (deliver_sameConfig h)
  attach _ _ _ ht := ht.trans ⟨fun _ => rfl, rfl, rfl, rfl⟩

/-- Settles O57: no part of a step takes a cartridge away or changes the rest of the configuration. -/
theorem configurationIsFixed : Obligations.ConfigurationIsFixed := by
  intro s t h
  obtain ⟨cart, tram, observer, mode⟩ := (preserved_sameConfig s).step (SameConfig.refl s) h
  exact ⟨cart, tram, observer, mode⟩

/-! ### What sees and what writes the internal latch -/

theorem hiAddr_eq_apuStatus {a : Addr} (h : hiAddr a = 0x4015) : a = 0x4014 :=
  add_right_cancel (h : a + 1 = 0x4014 + 1)

/-- Where READ16BUG does not carry, the low byte of its second address is 0, and that of `0x4015` is not. -/
theorem hiAddrBug_eq_apuStatus {a : Addr} (h : hiAddrBug a = 0x4015) : a = 0x4014 := by
  unfold hiAddrBug at h
  split at h
  · have low : a &&& 0xFF00 &&& 0x00FF = 0x4015 &&& 0x00FF := by rw [h]
    rw [BitVec.and_assoc] at low
    exact absurd (BitVec.and_zero.symm.trans low) (by decide)
  · exact hiAddr_eq_apuStatus h

/-- Only the range APU_STATUS is recorded in `int` (`40_dispatch.md` R103). -/
theorem record_int {r : Range} (hr : r ≠ .apuStatus) (a : Addr) (p : Byte × State) :
    (record r a p).2.int = p.2.int := by
  simp [record_eq, hr]

theorem operate_int {r : Range} {c : Capability} (h : r ≠ .apuStatus ∨ c ≠ .read) (a : Addr) (s : State) :
    (operate r a c s).int = s.int := by
  cases c with
  | read =>
    have hr : r ≠ .apuStatus := by simpa using h
    exact (record_int hr a _).trans (hRead_sameOutside _ a s).int
  | write v => exact (hWrite_sameOutside r.handler a v (s.setExt v)).int
  | peek => rfl

theorem ppuRead_sameOutside (n : BitVec 3) (s : State) : SameOutside s (ppuRead n s).2 :=
  (ppuReg_handler n s).1 ▸ hRead_sameOutside .ppu _ s

theorem ppuWrite_sameOutside (n : BitVec 3) (v : Byte) (s : State) : SameOutside s (ppuWrite n v s) :=
  (ppuReg_handler n s).2.1 v ▸ hWrite_sameOutside .ppu _ v s

theorem operatePpuReg_int (n : BitVec 3) (a : Addr) (c : Capability) (s : State) :
    (operatePpuReg n a c s).int = s.int := by
  cases c with
  | read => exact (record_int (r := .ppu) nofun a _).trans (ppuRead_sameOutside n s).int
  | write v => exact (ppuWrite_sameOutside n v (s.setExt v)).int
  | peek => rfl

theorem busRead_int {a : Addr} (ha : a ≠ 0x4015) (s : State) : (busRead a s).2.int = s.int :=
  operate_int (c := .read) (.inl (mt (rangeOf_eq_apuStatus a).mp ha)) a s

theorem busWrite_int (a : Addr) (v : Byte) (s : State) : (busWrite a v s).int = s.int :=
  operate_int (r := rangeOf a) (c := .write v) (.inr nofun) a s

theorem busReadPair_int {lo hi : Addr} (hlo : lo ≠ 0x4015) (hhi : hi ≠ 0x4015) (s : State) :
    (busReadPair lo hi s).2.int = s.int := calc
  (busReadPair lo hi s).2.int = (between false (busRead lo s).2).int := busRead_int hhi _
  _ = (busRead lo s).2.int := (between_sameInside false _).int
  _ = s.int := busRead_int hlo s

theorem fetchNoLatch_int (a : Addr) (s : State) : (fetchNoLatch a s).2.int = s.int := by
  unfold fetchNoLatch
  split
  · rfl
  · exact (hRead_sameOutside _ a s).int

theorem busDummyWrite_int (a : Addr) (s : State) : (busDummyWrite a s).int = s.int := calc
  (busDummyWrite a s).int = (between (controlAddr (rangeOf a) a) (fetchNoLatch a s).2).int := busWrite_int a _ _
  _ = (fetchNoLatch a s).2.int := (between_sameInside _ _).int
  _ = s.int := fetchNoLatch_int a s

/-- Settles O45: a READ writes `int` at `0x4015` only, and an access of another kind never does. -/
theorem onlyReadsOfApuStatusWriteInt : Obligations.OnlyReadsOfApuStatusWriteInt := by
  intro i s t h
  cases i
  case read a =>
    by_cases ha : a = 0x4015
    · exact .inr (.inl (by simp [ha]))
    · cases h; exact .inl (busRead_int ha s)
  case dummyread a =>
    by_cases ha : a = 0x4015
    · exact .inr (.inl (by simp [ha]))
    · cases h; exact .inl (busRead_int ha s)
  case read16 a =>
    by_cases ha : a = 0x4014 ∨ a = 0x4015
    · exact .inr (.inl (by obtain rfl | rfl := ha <;> simp))
    · obtain ⟨before, self⟩ := not_or.mp ha
      cases h; exact .inl (busReadPair_int self (mt hiAddr_eq_apuStatus before) s)
  case read16bug a =>
    by_cases ha : a = 0x4014 ∨ a = 0x4015
    · exact .inr (.inl (by obtain rfl | rfl := ha <;> simp))
    · obtain ⟨before, self⟩ := not_or.mp ha
      cases h; exact .inl (busReadPair_int self (mt hiAddrBug_eq_apuStatus before) s)
  case write a v => cases h; exact .inl (busWrite_int a v s)
  case peek => cases h; exact .inl rfl
  case dummywrite a => cases h; exact .inl (busDummyWrite_int a s)
  case reservedOp7 => cases h
  case apuStatus a c =>
    by_cases hc : c = .read
    · exact .inr (.inr ⟨a, by rw [hc]⟩)
    · cases h; exact .inl (operate_int (.inr hc) a s)
  case ppureg0 a c | ppureg1 a c | ppureg2 a c | ppureg3 a c | ppureg4 a c | ppureg5 a c | ppureg6 a c | ppureg7 a c =>
    cases h; exact .inl (operatePpuReg_int _ a c s)
  all_goals cases h; exact .inl (operate_int (.inl (by decide)) _ s)

/-- A handler other than the APU's does not look at `int` and leaves it (`10_state.md` R12, R33). -/
theorem hRead_setInt {h : Handler} (hh : h ≠ .apu) (a : Addr) (s : State) (y : Byte) :
    hRead h a (s.setInt y) = ((hRead h a s).1, (hRead h a s).2.setInt y) := by
  cases h with
  | ram => rfl
  | openBus => rfl
  | apu => exact absurd rfl hh
  | oamDma => rfl
  | controller => rfl
  | ppu =>
    by_cases hr : ppuReg a = 2
    · simp only [hRead, ppuRead, if_pos hr]; rfl
    · simp only [hRead, ppuRead, if_neg hr]; rfl
  | cartridge =>
    have hs : (s.setInt y).server a = s.server a := rfl
    cases hv : s.server a with
    | cartridge c => simp only [hRead, cartRead, hs, hv]; rfl
    | testRam m => simp only [hRead, cartRead, hs, hv]
    | nothing => simp only [hRead, cartRead, hs, hv]; rfl

/-- Outside APU_STATUS the latch update and the observer leave `int` to itself. -/
theorem record_setInt {r : Range} (hr : r ≠ .apuStatus) (a : Addr) (x : Byte) (s : State) (y : Byte) :
    record r a (x, s.setInt y) = (x, (record r a (x, s)).2.setInt y) := by
  simp only [record, State.latchRead, if_neg hr]; rfl

/-- Settles O48: neither the handler nor what the dispatcher does after it sees `int` outside the APU's ranges. -/
theorem intIsSeenOnlyAtTheApu : Obligations.IntIsSeenOnlyAtTheApu := by
  intro a y s ha
  have hr : rangeOf a ≠ .apuStatus := fun e => ha (by rw [e]; rfl)
  refine ⟨operate (rangeOf a) a .read s, rfl, ?_⟩
  change Host.Outcome.next (operate (rangeOf a) a .read (s.setInt y)) = _
  simp only [operate, hRead_setInt ha, record_setInt hr]
  rfl

/-! ### The handlers' targets -/

theorem ppuRead_frame (n : BitVec 3) (s : State) : (ppuRead n s).2 = s.setPpu (ppuRead n s).2.ppu := by
  unfold ppuRead
  split <;> rfl

theorem ppuWrite_frame (n : BitVec 3) (v : Byte) (s : State) : ppuWrite n v s = s.setPpu (ppuWrite n v s).ppu := by
  unfold ppuWrite
  split <;> rfl

theorem cartRead_frame (a : Addr) (s : State) : (cartRead a s).2 = s.setCart (cartRead a s).2.cart := by
  unfold cartRead
  split <;> rfl

theorem cartWrite_frame (a : Addr) (v : Byte) (s : State) :
    cartWrite a v s = { s with
      cart := (cartWrite a v s).cart, tram := (cartWrite a v s).tram,
      ppu := { s.ppu with mirroring := (cartWrite a v s).ppu.mirroring } } := by
  unfold cartWrite
  split <;> rfl

/-- Settles O46, handler by handler: each names the one field it updates. -/
theorem handlersWriteOnlyTheirTargets : Obligations.HandlersWriteOnlyTheirTargets := by
  intro a v s
  refine ⟨rfl, rfl, rfl, ⟨_, rfl⟩, ⟨_, _, ppuRead_frame _ s, ppuWrite_frame _ v s⟩, ⟨_, _, rfl, rfl⟩,
    ⟨_, _, rfl, rfl⟩, ⟨_, _, rfl, rfl⟩, ⟨_, cartRead_frame a s⟩, ⟨_, _, _, cartWrite_frame a v s⟩⟩

/-! ### The step, input by input -/

/-- A word that decodes is fetched as its instruction, in a state that admits it. -/
theorem fetch_of_decode {s : State} {f : Format} {w : PortWord} {es : List Event} {rest : List Input} {i : Instr}
    (hin : s.inbox = .word f w es :: rest) (decoded : decode f w = .ok i) :
    fetch s =
      if s.admits (followsSet i) then .run i { s with inbox := rest, mid := es } else .stop .requestAfterSet := by
  simp only [fetch, hin, decoded]
  rfl

/-- Settles O9: the step settles what the fetched instruction comes to. -/
theorem stepRunsTheDecodedRequest : Obligations.StepRunsTheDecodedRequest := by
  intro s f w es rest i hin decoded
  have fetched := fetch_of_decode hin decoded
  refine ⟨fun admitted => ?_, fun delivered late => ?_⟩
  · rw [if_pos ((State.admits_iff _ s).mpr admitted)] at fetched
    simp only [step, fetched]
    cases exec i { s with inbox := rest, mid := es } <;> rfl
  · rw [if_neg (by simp [State.admits_iff, delivered, late])] at fetched
    simp only [step, fetched]

/-- Settles O11, by the head of the inbox. -/
theorem stepTakesTheNextInput : Obligations.StepTakesTheNextInput := by
  refine ⟨fun s hin => ?_, fun s e rest hin => ?_, fun s f w es rest e hin turned => ?_⟩
  · simp only [step, fetch, hin]
  · have fetched : fetch s = .ofEvent (deliver e { s with inbox := rest }) := by simp only [fetch, hin]; rfl
    simp only [step, fetched]
    cases deliver e { s with inbox := rest } <;> rfl
  · simp only [step, fetch, hin, turned]

/-! ### RAM through its mirrors -/

theorem rangeOf_of_lt {a : Addr} (ha : a.toNat < 0x2000) : rangeOf a = .ram := by
  simp only [rangeOf]
  rw [if_pos (by omega)]

theorem ramRead_eq_ramByte (a : Addr) (s : State) : ramRead a s = s.ramByte a := by
  rw [ramRead, ramOffset_eq, State.ramByte]

/-- READ of a RAM address answers the byte at its offset. -/
theorem exec_read_ram {a : Addr} (ha : a.toNat < 0x2000) (s : State) :
    ∃ t, exec (.read a) s = .next t ∧ t.resp = .byte (s.ramByte a) :=
  ⟨_, rfl, by rw [rangeOf_of_lt ha, ← ramRead_eq_ramByte]; rfl⟩

/-- PEEK of a RAM address answers the byte at its offset. -/
theorem exec_peek_ram {a : Addr} (ha : a.toNat < 0x2000) (s : State) :
    ∃ t, exec (.peek a) s = .next t ∧ t.resp = .byte (s.ramByte a) :=
  ⟨_, rfl, by rw [rangeOf_of_lt ha, ← ramRead_eq_ramByte]; rfl⟩

/-- WRITE of a RAM address replaces the byte at its offset. -/
theorem exec_write_ram {a : Addr} (ha : a.toNat < 0x2000) (v : Byte) (s : State) :
    ∃ t, exec (.write a v) s = .next t ∧ t.ram = Memory.write .ram s.ram (a.toNat % 2048) v :=
  ⟨_, rfl, by rw [rangeOf_of_lt ha, ← ramOffset_eq]; rfl⟩

/-- Settles O35: both addresses have one offset, and a read after a write of it gives the byte written. -/
theorem allMirrorsReadTheWrittenByte : Obligations.AllMirrorsReadTheWrittenByte := by
  intro a c v s ha hc mirror
  obtain ⟨t, written, ram⟩ := exec_write_ram ha v s
  have byte : t.ramByte c = v := by rw [State.ramByte, ram, mirror, Memory.read_write_same]
  obtain ⟨u, read, answer⟩ := exec_read_ram hc t
  obtain ⟨w, peeked, seen⟩ := exec_peek_ram hc t
  rw [byte] at answer seen
  exact ⟨t, u, w, written, read, answer, peeked, seen⟩

/-- With nothing listed RAM holds the power-on pattern. -/
theorem Memory.read_ram_nil (i : BitVec 11) : Memory.read .ram [] i.toNat = Config.ramInit i :=
  congrArg Config.ramInit (BitVec.ofNat_toNat 11 i |>.trans (BitVec.setWidth_eq i))

/-- Settles O60, at the offset where `RAM_INIT` is not zero. -/
theorem powerOnRamIsNotAllZero : Obligations.PowerOnRamIsNotAllZero := by
  obtain ⟨i, nonzero⟩ := ramInit_not_all_zero
  have offset : (i.setWidth 16).toNat = i.toNat := BitVec.toNat_setWidth_of_le (by decide)
  have below : (i.setWidth 16).toNat < 0x2000 := by omega
  have byte : State.reset.ramByte (i.setWidth 16) = Config.ramInit i := by
    rw [State.ramByte, offset, Nat.mod_eq_of_lt i.isLt]
    exact Memory.read_ram_nil i
  obtain ⟨t, read, answer⟩ := exec_read_ram below State.reset
  exact ⟨_, below, t, _, read, answer, byte ▸ nonzero⟩

/-! ### The moves of the environment -/

/-- Settles O50, event by event, in the order of the frame. -/
theorem environmentMovesFollowTheRules : Obligations.EnvironmentMovesFollowTheRules := by
  intro s
  have clock : ∀ n, s.masterCycle.toNat ≤ n.toNat → (∀ c, s.dueCycle = some c → n.toNat ≤ c.toNat) →
      deliver (.clock n) s = .ok { s with masterCycle := n } := by
    intro n le notPast
    rw [deliver, clockTo, if_neg (by omega)]
    cases due : s.dueCycle with
    | none => rfl
    | some c => simp only [if_neg (Nat.not_lt.mpr (notPast c due))]; rfl
  refine ⟨clock, fun c phase state le => ?_,
    fun phase => ⟨fun state => ?_, fun state marker => ?_, fun state => ?_⟩,
    fun phase => ⟨fun state => ?_, fun state => ?_⟩, fun phase => ⟨fun state => ?_, fun state => ?_⟩, rfl,
    fun _ _ => rfl, fun _ => rfl, fun _ => rfl, fun _ => rfl, fun _ => rfl, fun c p attached => ?_⟩
  · simp [deliver, scheduleSet, phase, state, Nat.not_lt.mpr le, State.setPpu, State.setTimer]
  · simp [deliver, setDue, phase, state, State.setPpu, State.setTimer]
  · simp [deliver, setDue, phase, state, marker, State.setTimer]
  · simp [deliver, setDue, phase, state, State.setTimer]
  · simp [deliver, endOfVBlank, phase, state, State.setPpu, State.setTimer]
  · obtain state | state := state <;> simp [deliver, endOfVBlank, phase, state, State.setTimer]
  · simp [deliver, frameBoundary, phase, state, State.setPpu, State.setTimer]
  · simp [deliver, frameBoundary, phase, state, State.setTimer]
  · simp [deliver, cartMoves, attached, State.setCart]

/-- Settles O51, event by event: the phase is another one, or the VBlank machine is in another state. -/
theorem eventsOutOfTurnAreRefused : Obligations.EventsOutOfTurnAreRefused := by
  intro s
  refine ⟨fun c out => ?_, fun c phase state past => ?_, fun out => ?_, fun out => ?_, fun out => ?_,
    fun n back => ?_, fun n c le due past => ?_, fun p absent => ?_⟩
  · by_cases phase : s.timer.phase = .start
    · have state := out.resolve_left (not_not.mpr phase)
      cases hv : s.ppu.vblState <;> simp_all [deliver, scheduleSet]
    · simp [deliver, scheduleSet, phase]
  · simp [deliver, scheduleSet, phase, state, past]
  · by_cases phase : s.timer.phase = .scheduled
    · obtain other | state | ⟨c, state, late⟩ | ⟨state, other⟩ := out
      · exact absurd phase other
      · simp [deliver, setDue, state]
      · simp [deliver, setDue, state, late.symm]
      · simp [deliver, setDue, state, other]
    · simp [deliver, setDue, phase]
  · by_cases phase : s.timer.phase = .vblank
    · obtain ⟨c, state⟩ := out.resolve_left (not_not.mpr phase)
      simp [deliver, endOfVBlank, state]
    · simp [deliver, endOfVBlank, phase]
  · by_cases phase : s.timer.phase = .over
    · obtain state | ⟨c, state⟩ := out.resolve_left (not_not.mpr phase) <;> simp [deliver, frameBoundary, state]
    · simp [deliver, frameBoundary, phase]
  · simp [deliver, clockTo, back]
  · simp [deliver, clockTo, Nat.not_lt.mpr le, due, past]
  · simp [deliver, cartMoves, absent]

/-! ### Construction -/

theorem built_inv (b : BuildArgs) {tram : Option (List Host.Cell)}
    (canonical : ∀ m, tram = some m → Memory.wf .tram m) : (built b tram).Inv where
  ram := Memory.wf_nil .ram
  tram := canonical
  ppu := by constructor <;> cases flag : b.vblankFlag <;> simp [built, builtPpu, flag]
  timer := by constructor <;> cases flag : b.vblankFlag <;> simp [built, builtPpu, builtTimer, flag]

/-- Settles O55: the reset state is one of the constructed ones. -/
theorem resetMeetsTheInvariant : Obligations.ResetMeetsTheInvariant :=
  built_inv resetArgs (tram := none) nofun

/-- Settles O59, by what is given for the test RAM: nothing, or a slice of the one length that is admitted. -/
theorem constructionGivesTheInitialState : Obligations.ConstructionGivesTheInitialState := by
  intro b
  refine ⟨fun bytes given other => by simp [construct, given, Bank.size, other], fun length => ?_⟩
  cases given : b.tramSlice with
  | none =>
    exact ⟨built b none, by simp [construct, given], Memory.read_ram_nil, rfl, nofun, rfl, built_inv b nofun⟩
  | some bytes =>
    have size : bytes.length = Bank.size .tram := length bytes given
    refine ⟨built b (some (Memory.ofBytes .tram bytes 0)), by simp [construct, given, size], Memory.read_ram_nil, rfl,
      ?_, rfl, built_inv b ?_⟩
    · rintro _ _ ⟨⟩ ⟨⟩ k v hv
      simpa using Memory.read_ofBytes 0 hv
    · rintro _ ⟨⟩
      exact Memory.wf_ofBytes size.le

end Sys2Proof.Machine

namespace Sys2Proof.Machine

/-! ### What the decoder answers is well formed -/

theorem wellFormed_of_format_req {i : Instr} (h : i.format = .req) : i.wellFormed = true := by
  cases i
  case read | write | peek | read16 | read16bug | dummyread | dummywrite | reservedOp7 => rfl
  all_goals cases h

/-- A block of R74 claims exactly the addresses at which its row is well formed: its match and mask are its bounds. -/
theorem addrRow_wellFormed {r : AddrRow} (hr : r ∈ addrRows) (a : Addr) (c : Capability) :
    (r.toInstr a c).wellFormed = r.claims a := by
  have hlt := a.isLt
  have bounds : addrRows.map (fun r => (r.toInstr a c).wellFormed) = addrRows.map (fun r => r.claims a) := by
    rw [addrRows_claims]
    simp only [addrRows, List.cons_append, List.nil_append, List.map_cons, List.map_nil, Instr.wellFormed,
      List.cons.injEq, decide_eq_decide, and_true]
    and_intros <;> omega
  exact List.map_inj_left.mp bounds r hr

/-- A row of R78 claims exactly the images of its register. -/
theorem ppuRegRow_wellFormed {r : AddrRow} (hr : r ∈ ppuRegRows) (a : Addr) (c : Capability) :
    (r.toInstr a c).wellFormed = r.claims a :=
  have images : ppuRegRows.map (fun r => (r.toInstr a c).wellFormed) = ppuRegRows.map (fun r => r.claims a) :=
    (ppuRegRows_claims a).symm
  List.map_inj_left.mp images r hr

theorem addrRow_format {r : AddrRow} (hr : r ∈ addrRows) (a : Addr) (c : Capability) :
    (r.toInstr a c).format = .addr :=
  have formats : addrRows.map (fun r => (r.toInstr a c).format) = addrRows.map (fun _ => .addr) := rfl
  List.map_inj_left.mp formats r hr

theorem ppuRegRow_format {r : AddrRow} (hr : r ∈ ppuRegRows) (a : Addr) (c : Capability) :
    (r.toInstr a c).format = .ppureg :=
  have formats : ppuRegRows.map (fun r => (r.toInstr a c).format) = ppuRegRows.map (fun _ => .ppureg) := rfl
  List.map_inj_left.mp formats r hr

/-- Settles O2, by the format: the row found claims the address, and so is well formed there. -/
theorem decodedInstructionsAreWellFormed : Obligations.DecodedInstructionsAreWellFormed := by
  intro f w i h
  cases f with
  | req => exact ⟨format_of_decodeReq h, wellFormed_of_format_req (format_of_decodeReq h)⟩
  | addr =>
    obtain ⟨r, hr, a, c, claims, rfl⟩ := decodeAddr_cases h
    exact ⟨addrRow_format hr a c, (addrRow_wellFormed hr a c).trans claims⟩
  | ppureg =>
    obtain ⟨r, hr, a, c, claims, rfl⟩ := decodePpuReg_cases h
    exact ⟨ppuRegRow_format hr a c, (ppuRegRow_wellFormed hr a c).trans claims⟩

/-! ### READ, WRITE and PEEK are dispatched by the address's range -/

theorem exec_read (a : Addr) (s : State) : exec (.read a) s = .next (operate (rangeOf a) a .read s) := rfl

theorem exec_write (a : Addr) (v : Byte) (s : State) :
    exec (.write a v) s = .next (operate (rangeOf a) a (.write v) s) := rfl

theorem exec_peek (a : Addr) (s : State) : exec (.peek a) s = .next (operate (rangeOf a) a .peek s) := rfl

/-! ### What serves the CARTRIDGE range (`20_memory.md` R45) -/

theorem server_of_cart {s : State} {c : CartState} (hc : s.cart = some c) (a : Addr) : s.server a = .cartridge c := by
  simp only [State.server, hc]

theorem server_of_tram {s : State} {m : List Host.Cell} {a : Addr} (hc : s.cart = none) (hm : s.tram = some m)
    (ha : 0x8000 ≤ a.toNat) : s.server a = .testRam m := by
  simp only [State.server, hc, hm, if_pos ha]

theorem server_eq_nothing (s : State) (a : Addr) :
    s.server a = .nothing ↔ s.cart = none ∧ (s.tram = none ∨ a.toNat < 0x8000) := by
  unfold State.server
  cases s.cart with
  | some c => simp
  | none =>
    cases s.tram with
    | none => simp
    | some m => by_cases ha : 0x8000 ≤ a.toNat <;> simp [ha, Nat.lt_of_not_le]

/-- An attached cartridge answers the read and peek and keeps the write; the mirroring query follows (R130 to R132). -/
theorem operate_cartridge_of_cart {s : State} {a : Addr} {c p : CartState} {x : Byte} (hs : s.server a = .cartridge c)
    (answer : (x, p) = Config.cartRead c a) :
    operate .cartridge a .read s =
      { s with cart := some p, ext := x, observer := called s.observer a x false, resp := .byte x } ∧
    (∀ v : Byte, operate .cartridge a (.write v) s = { s with
      cart := some (Config.cartWrite c a v),
      ppu := { s.ppu with mirroring := Config.cartMirroring (Config.cartWrite c a v) },
      ext := v, observer := called s.observer a v true, resp := .nothing }) ∧
    operate .cartridge a .peek s = { s with resp := .byte (Config.cartPeek c a) } := by
  refine ⟨?_, fun v => ?_, ?_⟩
  · simp only [operate, record, Range.handler, hRead, cartRead, hs, ← answer]
    rfl
  · have hs' : (s.setExt v).server a = .cartridge c := hs
    simp only [operate, store, Range.handler, hWrite, cartWrite, hs']
    rfl
  · simp only [operate, Range.handler, hPeek, cartPeek, hs]
    rfl

/-- The test RAM answers the byte at the address's offset and stores the written one there (R130 to R132, D7). -/
theorem operate_cartridge_of_testRam {s : State} {a : Addr} {m : List Host.Cell} {x : Byte}
    (hs : s.server a = .testRam m) (byte : x = Memory.read .tram m (a.toNat % 0x8000)) :
    operate .cartridge a .read s = { s with ext := x, observer := called s.observer a x false, resp := .byte x } ∧
    (∀ v : Byte, operate .cartridge a (.write v) s = { s with
      tram := some (Memory.write .tram m (a.toNat % 0x8000) v),
      ext := v, observer := called s.observer a v true, resp := .nothing }) ∧
    operate .cartridge a .peek s = { s with resp := .byte x } := by
  rw [← tramOffset_eq] at byte ⊢
  refine ⟨?_, fun v => ?_, ?_⟩
  · simp only [operate, record, Range.handler, hRead, cartRead, hs, byte]
    rfl
  · have hs' : (s.setExt v).server a = .testRam m := hs
    simp only [operate, store, Range.handler, hWrite, cartWrite, hs']
    rfl
  · simp only [operate, Range.handler, hPeek, cartPeek, hs, byte]
    rfl

/-- Where nothing serves the address the latch answers, and a write stores nothing (R45 case 3). -/
theorem operate_cartridge_of_nothing {s : State} {a : Addr} (hs : s.server a = .nothing) :
    operate .cartridge a .read s = { s with observer := called s.observer a s.ext false, resp := .byte s.ext } ∧
    (∀ v : Byte, operate .cartridge a (.write v) s =
      { s with ext := v, observer := called s.observer a v true, resp := .nothing }) ∧
    operate .cartridge a .peek s = { s with resp := .byte s.ext } := by
  refine ⟨?_, fun v => ?_, ?_⟩
  · simp only [operate, record, Range.handler, hRead, cartRead, hs]
    rfl
  · have hs' : (s.setExt v).server a = .nothing := hs
    simp only [operate, store, Range.handler, hWrite, cartWrite, hs']
    rfl
  · simp only [operate, Range.handler, hPeek, cartPeek, hs]
    rfl

/-! ### A write replaces one byte -/

theorem Memory.read_write (b : Bank) (m : List Host.Cell) (j k : Nat) (v : Byte) :
    Memory.read b (Memory.write b m k v) j = if j = k then v else Memory.read b m j := by
  split
  case isTrue h => rw [h, Memory.read_write_same]
  case isFalse h => exact Memory.read_write_other b m v h

/-- Settles O18: each row is one capability of the CARTRIDGE handler, and that handler asks what serves the address. -/
theorem cartridgeRowsFollowWhatServesThem : Obligations.CartridgeRowsFollowWhatServesThem := by
  intro row hrow a s
  have runs : ∀ c, exec (row a c) s = .next (operate .cartridge a c s) := by
    revert row
    simp only [List.forall_mem_cons, List.not_mem_nil, false_implies, implies_true, and_true]
    and_intros <;> intros <;> rfl
  simp only [runs, Host.Outcome.next.injEq]
  refine ⟨fun c x p present answer => ?_, fun m x absent tram high byte => ?_, fun absent unserved => ?_⟩
  · exact operate_cartridge_of_cart (server_of_cart present a) answer
  · obtain ⟨read, write, peek⟩ := operate_cartridge_of_testRam (server_of_tram absent tram high) byte
    exact ⟨read, fun v => ⟨_, write v, fun k => Memory.read_write .tram m k _ v⟩, peek⟩
  · exact operate_cartridge_of_nothing ((server_eq_nothing s a).mpr ⟨absent, unserved⟩)

/-! ### RAM, whole (R120 to R122) -/

/-- Settles O29: the RAM handler answers the byte at the offset and changes nothing. -/
theorem readOfRamChangesOnlyTheLatch : Obligations.ReadOfRamChangesOnlyTheLatch := by
  intro a s ha
  have range := rangeOf_of_lt ha
  have byte := ramRead_eq_ramByte a s
  rw [exec_read, exec_peek, range, ← byte]
  exact ⟨rfl, rfl⟩

/-- Settles O30: the RAM handler replaces the byte at the offset. -/
theorem writeOfRamStoresOneByte : Obligations.WriteOfRamStoresOneByte := by
  intro a v s ha
  refine ⟨Memory.write .ram s.ram (a.toNat % 2048) v, ?_, fun k => Memory.read_write .ram s.ram k _ v⟩
  rw [exec_write, rangeOf_of_lt ha, ← ramOffset_eq]
  rfl

/-! ### A byte of RAM through any run of instructions (`20_memory.md` R56) -/

theorem handler_eq_ram (a : Addr) : (rangeOf a).handler = .ram ↔ a.toNat < 0x2000 := calc
  (rangeOf a).handler = .ram ↔ rangeOf a = .ram := by cases rangeOf a <;> simp [Range.handler]
  _ ↔ a.toNat < 0x2000 := by grind [rangeOf]

theorem hWrite_ram_of_ne {h : Handler} (hh : h ≠ .ram) (a : Addr) (v : Byte) (s : State) :
    (hWrite h a v s).ram = s.ram := by
  obtain e | ⟨ram, -⟩ | ⟨-, -, e⟩ | ⟨_, e⟩ | ⟨_, e⟩ | ⟨_, e⟩ | ⟨_, e⟩ | ⟨_, _, -, e⟩ | ⟨_, -, -, e⟩ :=
    hWrite_cases h a v s
  case inr.inl => exact absurd ram hh
  all_goals simp [e]

/-- Only the RAM handler's write changes RAM, at one offset (R121). -/
theorem hWrite_ram_byte (h : Handler) (a : Addr) (v : Byte) (s : State) (k : Nat) :
    Memory.read .ram (hWrite h a v s).ram k =
      if h = .ram ∧ k = a.toNat % 2048 then v else Memory.read .ram s.ram k := by
  by_cases hh : h = .ram
  · subst hh
    simp only [hWrite, ramWrite, State.setRam_ram, ramOffset_eq, Memory.read_write, true_and]
  · rw [if_neg fun both => hh both.1, hWrite_ram_of_ne hh]

theorem record_ram (r : Range) (a : Addr) (p : Byte × State) : (record r a p).2.ram = p.2.ram := by
  rw [record_eq]

/-- READ, WRITE or PEEK dispatched by another range leaves RAM as it is. -/
theorem operate_ram_of_ne {r : Range} (hr : r.handler ≠ .ram) (a : Addr) (c : Capability) (s : State) :
    (operate r a c s).ram = s.ram := by
  cases c with
  | read => exact (record_ram r a _).trans (hRead_memories r.handler a s).1
  | write v => exact hWrite_ram_of_ne hr a v (s.setExt v)
  | peek => rfl

theorem operatePpuReg_ram (n : BitVec 3) (a : Addr) (c : Capability) (s : State) :
    (operatePpuReg n a c s).ram = s.ram := by
  cases c with
  | read => exact (record_ram .ppu a _).trans (by rw [ppuRead_frame]; rfl)
  | write v => exact (congrArg State.ram (ppuWrite_frame n v (s.setExt v)) :)
  | peek => rfl

theorem busRead_ram (a : Addr) (s : State) : (busRead a s).2.ram = s.ram :=
  (record_ram _ a _).trans (hRead_memories _ a s).1

theorem busReadPair_ram (lo hi : Addr) (s : State) : (busReadPair lo hi s).2.ram = s.ram := calc
  (busReadPair lo hi s).2.ram = (between false (busRead lo s).2).ram := busRead_ram hi _
  _ = (busRead lo s).2.ram := (between_sameInside false _).ram
  _ = s.ram := busRead_ram lo s

theorem fetchNoLatch_ram (a : Addr) (s : State) : (fetchNoLatch a s).2.ram = s.ram := by
  unfold fetchNoLatch
  split
  · rfl
  · exact (hRead_memories _ a s).1

/-- In either mode the read half of a DUMMYWRITE of RAM fetches the byte that is there (R156). -/
theorem fetchNoLatch_of_ram {a : Addr} (ha : (rangeOf a).handler = .ram) (s : State) :
    (fetchNoLatch a s).1 = s.ramByte a := by
  unfold fetchNoLatch
  rw [ha]
  split <;> exact ramRead_eq_ramByte a s

/-- A DUMMYWRITE puts back the byte that is there (R153, corner case 1). -/
theorem busDummyWrite_ram_byte (a : Addr) (s : State) (k : Nat) :
    Memory.read .ram (busDummyWrite a s).ram k = Memory.read .ram s.ram k := by
  have moved : (between (controlAddr (rangeOf a) a) (fetchNoLatch a s).2).ram = s.ram :=
    (between_sameInside _ _).ram.trans (fetchNoLatch_ram a s)
  refine (hWrite_ram_byte _ a _ _ k).trans ?_
  rw [State.setExt_ram, moved]
  split
  case isTrue h => rw [fetchNoLatch_of_ram h.1, State.ramByte, h.2]
  case isFalse h => rfl

/-- An instruction that does not write the offset keeps the byte there, whatever the environment does inside it. -/
theorem exec_ram_byte {i : Instr} {k : Nat} (hi : writesRamAt k i = false) {s t : State} (h : exec i s = .next t) :
    Memory.read .ram t.ram k = Memory.read .ram s.ram k := by
  have same : ∀ {m}, m = s.ram → Memory.read .ram m k = Memory.read .ram s.ram k := congrArg (Memory.read .ram · k)
  cases i
  case write a v =>
    cases h
    refine (hWrite_ram_byte _ a v (s.setExt v) k).trans (if_neg fun ⟨ram, offset⟩ => ?_)
    simp [writesRamAt, (handler_eq_ram a).mp ram, offset] at hi
  case ram a c =>
    cases h
    cases c with
    | read => rfl
    | write v =>
      refine (hWrite_ram_byte .ram a v (s.setExt v) k).trans (if_neg fun ⟨_, offset⟩ => ?_)
      simp [writesRamAt, offset] at hi
    | peek => rfl
  case dummywrite a => cases h; exact busDummyWrite_ram_byte a s k
  case read a | dummyread a => cases h; exact same (busRead_ram a s)
  case read16 a | read16bug a => cases h; exact same (busReadPair_ram a _ s)
  case peek => cases h; rfl
  case reservedOp7 => cases h
  case ppureg0 a c | ppureg1 a c | ppureg2 a c | ppureg3 a c | ppureg4 a c | ppureg5 a c | ppureg6 a c | ppureg7 a c =>
    cases h; exact same (operatePpuReg_ram _ a c s)
  all_goals cases h; exact same (operate_ram_of_ne (by decide) _ _ s)

theorem execAll_ram_byte {is : List Instr} {k : Nat} (his : ∀ i ∈ is, writesRamAt k i = false) {s t : State}
    (h : execAll is s = .next t) : Memory.read .ram t.ram k = Memory.read .ram s.ram k := by
  induction is generalizing s with
  | nil => cases h; rfl
  | cons i is ih =>
    obtain ⟨hi, his⟩ := List.forall_mem_cons.mp his
    rw [execAll] at h
    split at h
    case h_1 u run => exact (ih his h).trans (exec_ram_byte hi run)
    all_goals cases h

/-- Settles O36: the WRITE leaves the byte at the offset, every instruction keeps it, and the mirror has that offset. -/
theorem ramKeepsAByteUntilWrittenAgain : Obligations.RamKeepsAByteUntilWrittenAgain := by
  intro a c v s t u is ha hc mirror written untouched run
  obtain ⟨t', written', ram⟩ := exec_write_ram ha v s
  cases written.symm.trans written'
  have byte : u.ramByte c = v := by
    rw [State.ramByte, mirror, execAll_ram_byte untouched run, ram, Memory.read_write_same]
  rw [← byte]
  exact exec_read_ram hc u

/-! ### The open bus (`20_memory.md` R54) -/

theorem rangeOf_eq_openBus (a : Addr) : rangeOf a = .openBus ↔ 0x4018 ≤ a.toNat ∧ a.toNat ≤ 0x401F := by
  have hlt := a.isLt
  grind [rangeOf]

theorem rangeOf_eq_cartridge (a : Addr) : rangeOf a = .cartridge ↔ 0x4020 ≤ a.toNat := by
  have hlt := a.isLt
  grind [rangeOf]

theorem unmapped_iff (a : Addr) (s : State) :
    s.unmapped a = true ↔ rangeOf a = .openBus ∨ rangeOf a = .cartridge ∧ s.server a = .nothing := by
  unfold State.unmapped
  cases rangeOf a <;> simp

/-- Settles O34: the OPEN_BUS range, and the CARTRIDGE range where nothing serves it. -/
theorem unmappedAddressesAreThese : Obligations.UnmappedAddressesAreThese := by
  intro a s
  rw [unmapped_iff, rangeOf_eq_openBus, rangeOf_eq_cartridge, server_eq_nothing]

/-- Settles O32: the fallback handler and the CARTRIDGE handler under case (3) of R45 both answer the latch. -/
theorem unmappedReadsReturnTheOpenBus : Obligations.UnmappedReadsReturnTheOpenBus := by
  intro a s unmapped
  rw [exec_read, exec_peek]
  obtain range | ⟨range, unserved⟩ := (unmapped_iff a s).mp unmapped <;> rw [range]
  · exact ⟨rfl, rfl⟩
  · obtain ⟨read, -, peek⟩ := operate_cartridge_of_nothing unserved
    rw [read, peek]
    exact ⟨rfl, rfl⟩

/-- No handler's write attaches a cartridge. -/
theorem hWrite_cart_eq_none {s : State} (hs : s.cart = none) (h : Handler) (a : Addr) (v : Byte) :
    (hWrite h a v s).cart = none := by
  obtain e | ⟨-, e⟩ | ⟨-, -, e⟩ | ⟨_, e⟩ | ⟨_, e⟩ | ⟨_, e⟩ | ⟨_, e⟩ | ⟨_, _, present, e⟩ | ⟨_, -, -, e⟩ :=
    hWrite_cases h a v s
  case inr.inr.inr.inr.inr.inr.inr.inl => cases hs.symm.trans present
  all_goals rw [e]; exact hs

/-- What nothing serves, nothing serves after a WRITE: it attaches no cartridge and adds no test RAM. -/
theorem unmapped_busWrite {s : State} {b : Addr} (hs : s.unmapped b = true) (a : Addr) (v : Byte) :
    (busWrite a v s).unmapped b = true := by
  rw [unmapped_iff, server_eq_nothing] at hs ⊢
  have same : (busWrite a v s).tram.isSome = s.tram.isSome := (hWrite_sameConfig _ a v (s.setExt v)).tram
  have tram : s.tram = none → (busWrite a v s).tram = none := fun missing => by simpa [missing] using same
  exact hs.imp_right fun ⟨range, absent, unserved⟩ =>
    ⟨range, hWrite_cart_eq_none (s := s.setExt v) absent (rangeOf a).handler a v, unserved.imp_left tram⟩

/-- Settles O33: the WRITE puts the byte in `ext` and leaves the second address unmapped. -/
theorem writtenByteIsReadBackFromUnmapped : Obligations.WrittenByteIsReadBackFromUnmapped := by
  intro a b v s unmapped
  have ext : (busWrite a v s).ext = v := (hWrite_sameOutside (rangeOf a).handler a v (s.setExt v)).ext
  obtain ⟨read, -⟩ := unmappedReadsReturnTheOpenBus b ((busWrite a v s).setResp .nothing)
    (unmapped_busWrite unmapped a v)
  exact ⟨_, _, rfl, ext, read, congrArg Response.byte ext⟩

/-! ### Test RAM (`20_memory.md` R56, D6, D7) -/

/-- READ and WRITE of an address the test RAM serves. -/
theorem exec_of_testRam {s : State} {m : List Host.Cell} (absent : s.cart = none) (tram : s.tram = some m) {a : Addr}
    (ha : 0x8000 ≤ a.toNat) :
    (∃ t, exec (.read a) s = .next t ∧ t.resp = .byte (Memory.read .tram m (a.toNat % 0x8000))) ∧
    ∀ v, ∃ t, exec (.write a v) s = .next t ∧ t.cart = none ∧
      t.tram = some (Memory.write .tram m (a.toNat % 0x8000) v) := by
  have range : rangeOf a = .cartridge := (rangeOf_eq_cartridge a).mpr (by omega)
  obtain ⟨read, write, -⟩ := operate_cartridge_of_testRam (server_of_tram absent tram ha) rfl
  refine ⟨⟨_, rfl, ?_⟩, fun v => ⟨_, rfl, ?_⟩⟩
  · rw [range, read]
  · rw [range, write]
    exact ⟨absent, rfl⟩

/-- Settles O37: from `0x8000` up two addresses have one offset only if they are one. -/
theorem testRamReadsBackWhatWasWritten : Obligations.TestRamReadsBackWhatWasWritten := by
  intro a c v s absent present ha hc
  obtain ⟨m, tram⟩ := Option.isSome_iff_exists.mp present
  obtain ⟨t, written, absent', tram'⟩ := (exec_of_testRam absent tram ha).2 v
  obtain ⟨⟨u, read, answer⟩, -⟩ := exec_of_testRam absent' tram' hc
  obtain ⟨⟨w, before, old⟩, -⟩ := exec_of_testRam absent tram hc
  refine ⟨t, u, written, read, ?_, fun other => ⟨w, _, before, old, ?_⟩⟩
  · rintro rfl
    rw [answer, Memory.read_write_same]
  · have offsets : c.toNat % 0x8000 ≠ a.toNat % 0x8000 := fun same => other (BitVec.eq_of_toNat_eq (by omega))
    rw [answer, Memory.read_write_other .tram m v offsets]

end Sys2Proof.Machine

namespace Sys2Proof.Machine

/-! ### One row claims each address (`30_encoding.md` R75) -/

/-- Of entries no two of which pass a test, the filter leaves the one that passes it. -/
theorem filter_eq_singleton_of_pairwise {α : Type} {p : α → Bool} {l : List α}
    (disjoint : l.Pairwise (fun x y => ¬ (p x = true ∧ p y = true))) {x : α} (hx : x ∈ l) (hp : p x = true) :
    l.filter p = [x] := by
  induction disjoint with
  | nil => cases hx
  | @cons y l others _ ih =>
    obtain rfl | later := List.mem_cons.mp hx
    · rw [List.filter_cons_of_pos hp, List.filter_eq_nil_iff.mpr fun z hz passes => others z hz ⟨hp, passes⟩]
    · rw [List.filter_cons_of_neg fun passes => others x later ⟨passes, hp⟩, ih later]

theorem find?_eq_some_of_pairwise {α : Type} {p : α → Bool} {l : List α}
    (disjoint : l.Pairwise (fun x y => ¬ (p x = true ∧ p y = true))) {x : α} (hx : x ∈ l) (hp : p x = true) :
    l.find? p = some x := by
  rw [← List.head?_filter, filter_eq_singleton_of_pairwise disjoint hx hp, List.head?_cons]

/-- The blocks of R74 do not overlap. -/
theorem addrRows_disjoint (a : Addr) :
    addrRows.Pairwise (fun r r' => ¬ (r.claims a = true ∧ r'.claims a = true)) := by
  have bounds : (addrRows.map (fun r => r.claims a)).Pairwise (fun p q => ¬ (p = true ∧ q = true)) := by
    rw [addrRows_claims]
    simp only [List.pairwise_cons, List.forall_mem_cons, decide_eq_true_eq, List.not_mem_nil, false_implies,
      implies_true, List.Pairwise.nil, and_true]
    and_intros <;> omega
  exact List.pairwise_map.mp bounds

/-- The registers of R78 have no image in common. -/
theorem ppuRegRows_disjoint (a : Addr) :
    ppuRegRows.Pairwise (fun r r' => ¬ (r.claims a = true ∧ r'.claims a = true)) := by
  have images : (ppuRegRows.map (fun r => r.claims a)).Pairwise (fun p q => ¬ (p = true ∧ q = true)) := by
    rw [ppuRegRows_claims]
    simp only [List.pairwise_cons, List.forall_mem_cons, decide_eq_true_eq, List.not_mem_nil, false_implies,
      implies_true, List.Pairwise.nil, and_true]
    and_intros <;> omega
  exact List.pairwise_map.mp images

/-- Settles O3: some block claims the address, no other does, and that block has the address's range. -/
theorem exactlyOneBlockClaimsEachAddress : Obligations.ExactlyOneBlockClaimsEachAddress := by
  intro a
  obtain ⟨r, hr, claims⟩ := exists_addrRow_claims a
  rw [filter_eq_singleton_of_pairwise (addrRows_disjoint a) hr claims, rangeOf_of_addrRow_claims hr claims]
  rfl

/-! ### Decoding an encoded instruction -/

/-- A row that claims the address is the one its word decodes to. -/
theorem decode_addrWord_of_addrRow {r : AddrRow} (hr : r ∈ addrRows) {a : Addr} (ha : r.claims a = true)
    (c : Capability) : decode .addr (addrWord a c) = .ok (r.toInstr a c) := by
  have found := find?_eq_some_of_pairwise (addrRows_disjoint a) hr ha
  simp only [decode, decodeAddr, decodeCapability_addrWord, addrWord_addr, found]

theorem decode_addrWord_of_ppuRegRow {r : AddrRow} (hr : r ∈ ppuRegRows) {a : Addr} (ha : r.claims a = true)
    (c : Capability) : decode .ppureg (addrWord a c) = .ok (r.toInstr a c) := by
  have found := find?_eq_some_of_pairwise (ppuRegRows_disjoint a) hr ha
  simp only [decode, decodePpuReg, decodeCapability_addrWord, addrWord_addr, found]

theorem addrRow_encode {r : AddrRow} (hr : r ∈ addrRows) (a : Addr) (c : Capability) :
    encode (r.toInstr a c) = addrWord a c :=
  have words : addrRows.map (fun r => encode (r.toInstr a c)) = addrRows.map (fun _ => addrWord a c) := rfl
  List.map_inj_left.mp words r hr

theorem ppuRegRow_encode {r : AddrRow} (hr : r ∈ ppuRegRows) (a : Addr) (c : Capability) :
    encode (r.toInstr a c) = addrWord a c :=
  have words : ppuRegRows.map (fun r => encode (r.toInstr a c)) = ppuRegRows.map (fun _ => addrWord a c) := rfl
  List.map_inj_left.mp words r hr

theorem bitVec3_cases (n : BitVec 3) :
    n = 0 ∨ n = 1 ∨ n = 2 ∨ n = 3 ∨ n = 4 ∨ n = 5 ∨ n = 6 ∨ n = 7 := by
  revert n
  decide

/-- The `REQ` rows in the order of their op codes (R80, R83). -/
def requestRows (a : Addr) (v : Byte) : List Instr :=
  [.read a, .write a v, .peek a, .read16 a, .read16bug a, .dummyread a, .dummywrite a, .reservedOp7]

/-- A request word is the row its op code numbers. -/
theorem decode_reqWord (op : BitVec 3) (a : Addr) (v : Byte) :
    decode .req (reqWord op a v) = .ok ((requestRows a v)[op.toNat]'op.isLt) := by
  simp only [decode, decodeReq, reqWord_top, reqWord_op, reqWord_addr, reqWord_data]
  obtain rfl | rfl | rfl | rfl | rfl | rfl | rfl | rfl := bitVec3_cases op <;> rfl

/-- Every instruction is a request, a block's row or a register's row. -/
theorem format_req_or_row (i : Instr) :
    i.format = .req ∨ (∃ r ∈ addrRows, ∃ a c, i = r.toInstr a c) ∨ ∃ r ∈ ppuRegRows, ∃ a c, i = r.toInstr a c := by
  have block : ∀ n (h : n < addrRows.length) a c, ∃ r ∈ addrRows, ∃ a' c', addrRows[n].toInstr a c = r.toInstr a' c' :=
    fun n h a c => ⟨_, List.getElem_mem h, a, c, rfl⟩
  have reg : ∀ n (h : n < ppuRegRows.length) a c,
      ∃ r ∈ ppuRegRows, ∃ a' c', ppuRegRows[n].toInstr a c = r.toInstr a' c' :=
    fun n h a c => ⟨_, List.getElem_mem h, a, c, rfl⟩
  cases i with
  | read _ | write _ _ | peek _ | read16 _ | read16bug _ | dummyread _ | dummywrite _ | reservedOp7 => exact .inl rfl
  | ram a c => exact .inr <| .inl <| block 0 (by decide) a c
  | ppu a c => exact .inr <| .inl <| block 1 (by decide) a c
  | apu4000 a c => exact .inr <| .inl <| block 2 (by decide) a c
  | apu4010 a c => exact .inr <| .inl <| block 3 (by decide) a c
  | oamDma a c => exact .inr <| .inl <| block 4 (by decide) a c
  | apuStatus a c => exact .inr <| .inl <| block 5 (by decide) a c
  | controller a c => exact .inr <| .inl <| block 6 (by decide) a c
  | openBus a c => exact .inr <| .inl <| block 7 (by decide) a c
  | cartridge4020 a c => exact .inr <| .inl <| block 8 (by decide) a c
  | cartridge4040 a c => exact .inr <| .inl <| block 9 (by decide) a c
  | cartridge4080 a c => exact .inr <| .inl <| block 10 (by decide) a c
  | cartridge4100 a c => exact .inr <| .inl <| block 11 (by decide) a c
  | cartridge4200 a c => exact .inr <| .inl <| block 12 (by decide) a c
  | cartridge4400 a c => exact .inr <| .inl <| block 13 (by decide) a c
  | cartridge4800 a c => exact .inr <| .inl <| block 14 (by decide) a c
  | cartridge5000 a c => exact .inr <| .inl <| block 15 (by decide) a c
  | cartridge6000 a c => exact .inr <| .inl <| block 16 (by decide) a c
  | cartridge8000 a c => exact .inr <| .inl <| block 17 (by decide) a c
  | ppureg0 a c => exact .inr <| .inr <| reg 0 (by decide) a c
  | ppureg1 a c => exact .inr <| .inr <| reg 1 (by decide) a c
  | ppureg2 a c => exact .inr <| .inr <| reg 2 (by decide) a c
  | ppureg3 a c => exact .inr <| .inr <| reg 3 (by decide) a c
  | ppureg4 a c => exact .inr <| .inr <| reg 4 (by decide) a c
  | ppureg5 a c => exact .inr <| .inr <| reg 5 (by decide) a c
  | ppureg6 a c => exact .inr <| .inr <| reg 6 (by decide) a c
  | ppureg7 a c => exact .inr <| .inr <| reg 7 (by decide) a c

theorem decode_encode_of_format_req {i : Instr} (h : i.format = .req) : decode .req (encode i) = .ok i := by
  cases i
  case read a => exact decode_reqWord 0 a 0
  case write a v => exact decode_reqWord 1 a v
  case peek a => exact decode_reqWord 2 a 0
  case read16 a => exact decode_reqWord 3 a 0
  case read16bug a => exact decode_reqWord 4 a 0
  case dummyread a => exact decode_reqWord 5 a 0
  case dummywrite a => exact decode_reqWord 6 a 0
  case reservedOp7 => exact decode_reqWord 7 0 0
  all_goals cases h

/-- Settles O1: a well-formed row's instruction has an address its row claims, and the decoder finds the row that
claims it. -/
theorem encodeThenDecodeGivesTheInstruction : Obligations.EncodeThenDecodeGivesTheInstruction := by
  intro i wellFormed
  obtain request | ⟨r, hr, a, c, rfl⟩ | ⟨r, hr, a, c, rfl⟩ := format_req_or_row i
  · rw [request, decode_encode_of_format_req request]
  · rw [addrRow_wellFormed hr] at wellFormed
    rw [addrRow_format hr, addrRow_encode hr, decode_addrWord_of_addrRow hr wellFormed]
  · rw [ppuRegRow_wellFormed hr] at wellFormed
    rw [ppuRegRow_format hr, ppuRegRow_encode hr, decode_addrWord_of_ppuRegRow hr wellFormed]

/-- Settles O5: each word is the encoding of its instruction. -/
theorem spelledWordsDecode : Obligations.SpelledWordsDecode :=
  have decodes := encodeThenDecodeGivesTheInstruction
  ⟨decodes (.read 0x1FFF) rfl, decodes (.write 0x07FF 0x11) rfl, decodes (.peek 0x401F) rfl,
    decodes (.read16 0x08FF) rfl, decodes (.read16bug 0x08FF) rfl, decodes (.dummyread 0x0010) rfl,
    decodes (.dummywrite 0x4018) rfl, decodes .reservedOp7 rfl, decodes (.ram 0x08FF .read) rfl,
    decodes (.ppu 0x3FFF (.write 0x22)) rfl, decodes (.apu4010 0x4013 .peek) rfl,
    decodes (.cartridge6000 0x7FFF .read) rfl, decodes (.ppureg2 0x3FFA .read) rfl⟩

/-- Settles O6: of the request rows only WRITE's holds the data. -/
theorem dataFieldIsIgnoredExceptByWrite : Obligations.DataFieldIsIgnoredExceptByWrite := by
  intro op a v v' notWrite
  rw [decode_reqWord, decode_reqWord]
  obtain rfl | rfl | rfl | rfl | rfl | rfl | rfl | rfl := bitVec3_cases op
  case inr.inl => exact absurd rfl notWrite
  all_goals rfl

/-- Settles O7: the last of the request rows is the reserved one, whose meaning is the refusal. -/
theorem reservedOpCodeIsRefused : Obligations.ReservedOpCodeIsRefused :=
  ⟨decode_reqWord 7, fun _ => rfl⟩

/-! ### The ranges, by their bounds (R70) -/

/-- The eight branches of the decode. -/
theorem rangeOf_cases (a : Addr) :
    (rangeOf a = .ram ∧ a.toNat ≤ 0x1FFF) ∨
    (rangeOf a = .ppu ∧ 0x2000 ≤ a.toNat ∧ a.toNat ≤ 0x3FFF) ∨
    (rangeOf a = .apu ∧ 0x4000 ≤ a.toNat ∧ a.toNat ≤ 0x4013) ∨
    (rangeOf a = .oamDma ∧ a.toNat = 0x4014) ∨
    (rangeOf a = .apuStatus ∧ a.toNat = 0x4015) ∨
    (rangeOf a = .controller ∧ (a.toNat = 0x4016 ∨ a.toNat = 0x4017)) ∨
    (rangeOf a = .openBus ∧ 0x4018 ≤ a.toNat ∧ a.toNat ≤ 0x401F) ∨
    (rangeOf a = .cartridge ∧ 0x4020 ≤ a.toNat) := by
  have hlt := a.isLt
  unfold rangeOf
  split_ifs <;> simp only [false_and, true_and, false_or, or_false] <;> omega

/-- Settles O4: the branch the address takes gives its range, and no other branch's bounds hold. -/
theorem rangeFollowsTheAddressMap : Obligations.RangeFollowsTheAddressMap := by
  intro a
  simp only [← BitVec.toNat_inj, BitVec.toNat_ofNat, BitVec.ofNat_eq_ofNat, Nat.reducePow, Nat.reduceMod]
  obtain ⟨range, _⟩ | ⟨range, _⟩ | ⟨range, _⟩ | ⟨range, _⟩ | ⟨range, _⟩ | ⟨range, _⟩ | ⟨range, _⟩ | ⟨range, _⟩ :=
    rangeOf_cases a <;> simp only [range, reduceCtorEq, false_iff, true_iff] <;> omega

/-! ### The second address of a 16-bit read (R77) -/

/-- An address is the last of its page when its low byte is `0xFF`. -/
theorem and_lowByte_eq_iff (a : Addr) : a &&& 0x00FF = 0x00FF ↔ a.toNat % 0x100 = 0xFF := by
  have low : (a &&& 0x00FF).toNat = a.toNat % 0x100 := by
    rw [BitVec.toNat_and]
    exact Nat.and_two_pow_sub_one_eq_mod a.toNat 8
  rw [← BitVec.toNat_inj, low]
  rfl

theorem hiAddr_toNat (a : Addr) : (hiAddr a).toNat = (a.toNat + 1) % 0x10000 := BitVec.toNat_add a 1

/-- READ16BUG wraps within the page, and below the page's last address nothing wraps. -/
theorem hiAddrBug_toNat (a : Addr) :
    (hiAddrBug a).toNat = if a.toNat % 0x100 = 0xFF then a.toNat - 0xFF else a.toNat + 1 := by
  have hlt := a.isLt
  unfold hiAddrBug
  simp only [and_lowByte_eq_iff]
  split
  · have page : (a &&& 0xFF00).toNat = a.toNat / 2 ^ 8 * 2 ^ 8 := toNat_and_highMask a 8
    omega
  · have next : (a + 1).toNat = (a.toNat + 1) % 0x10000 := hiAddr_toNat a
    omega

theorem combine_toNat (hi lo : Byte) : (combine hi lo).toNat = hi.toNat * 0x100 + lo.toNat := by
  have hhi := hi.isLt
  have hlo := lo.isLt
  have high : (hi.setWidth 16 <<< 8).toNat = 2 ^ 8 * hi.toNat := by
    rw [BitVec.toNat_shiftLeft, BitVec.toNat_setWidth, Nat.shiftLeft_eq]
    omega
  have low : (lo.setWidth 16).toNat = lo.toNat := BitVec.toNat_setWidth_of_le (by decide)
  rw [combine, BitVec.toNat_or, high, low, ← Nat.two_pow_add_eq_or_of_lt hlo]
  omega

/-- Settles O8: at a page's last address the two second addresses are a page apart, elsewhere both are the next one. -/
theorem secondAddressesDifferOnlyAtPageEnds : Obligations.SecondAddressesDifferOnlyAtPageEnds := by
  refine ⟨hiAddr_toNat, hiAddrBug_toNat, fun a => ?_, combine_toNat⟩
  have hlt := a.isLt
  rw [ne_eq, ← BitVec.toNat_inj, hiAddr_toNat, hiAddrBug_toNat]
  split <;> omega

/-! ### A word placed by the host -/

theorem decode_of_decodeTableWord {nbits w : Nat} {i : Instr} (h : decodeTableWord nbits w = some i) :
    decode (tableFormat nbits w) (BitVec.ofNat 32 w) = .ok i := by
  unfold decodeTableWord at h
  split at h
  case h_1 j decoded => rw [decoded, Option.some.inj h]
  case h_2 => cases h

/-- Settles O10: the placed word is the request at the head of the inbox. -/
theorem placedWordRunsNext : Obligations.PlacedWordRunsNext := by
  intro s nbits w i decoded admitted
  obtain ⟨runs, -⟩ := stepRunsTheDecodedRequest (s.withFetchWord nbits w) _ _ [] s.inbox i rfl
    (decode_of_decodeTableWord decoded)
  exact runs admitted

/-! ### The PPU row (`41_handlers.md` R123) -/

/-- A register's number finds its row, which runs that register. -/
theorem exists_ppuregRow (n : BitVec 3) (a : Addr) (c : Capability) (s : State) :
    ∃ i ∈ [(0, Instr.ppureg0 a c), (1, .ppureg1 a c), (2, .ppureg2 a c), (3, .ppureg3 a c), (4, .ppureg4 a c),
        (5, .ppureg5 a c), (6, .ppureg6 a c), (7, .ppureg7 a c)],
      i.1 = n.toNat ∧ exec i.2 s = .next (operatePpuReg n a c s) := by
  refine ⟨_, List.getElem_mem (n := n.toNat) (by exact n.isLt), ?_⟩
  obtain rfl | rfl | rfl | rfl | rfl | rfl | rfl | rfl := bitVec3_cases n <;> exact ⟨rfl, rfl⟩

/-- Settles O13: the register in the address's low bits is the one the PPU handler takes. -/
theorem ppuRowSelectsTheRegister : Obligations.PpuRowSelectsTheRegister := by
  intro a c s
  obtain ⟨i, row, number, runs⟩ := exists_ppuregRow (ppuReg a) a c s
  rw [operatePpuReg_eq rfl] at runs
  exact ⟨i, row, number.trans (ppuReg_toNat a), _, rfl, runs⟩

end Sys2Proof.Machine

namespace Sys2Proof.Machine

/-! ### The dispatcher around a handler, whole (`40_dispatch.md` R100 to R103) -/

/-- A handler's read leaves both latches and the observer, so what READ leaves there is the dispatcher's alone
(R100). -/
theorem operate_read_eq (r : Range) (a : Addr) (s : State) :
    operate r a .read s = { (hRead r.handler a s).2 with
      ext := if r = .apuStatus then s.ext else (hRead r.handler a s).1,
      int := if r = .apuStatus then (hRead r.handler a s).1 else s.int,
      observer := called s.observer a (hRead r.handler a s).1 false,
      resp := .byte (hRead r.handler a s).1 } := by
  have same := hRead_sameOutside r.handler a s
  simp only [operate, record_eq, same.ext, same.int, same.observer]
  rfl

/-- A handler's write leaves both latches and the observer, so `ext` keeps the byte it took before the handler
(R101). -/
theorem operate_write_eq (r : Range) (a : Addr) (v : Byte) (s : State) :
    operate r a (.write v) s = { hWrite r.handler a v { s with ext := v } with
      ext := v,
      int := s.int,
      observer := called s.observer a v true,
      resp := .nothing } := by
  have same := hWrite_sameOutside r.handler a v (s.setExt v)
  simp only [operate, store, State.observe, State.setObserver, State.setResp, same.ext, same.int, same.observer]
  rfl

/-- Settles O26: the range APU_STATUS, which the dispatcher records in `int`, is the address `0x4015`. -/
theorem readRecordsTheHandlersByte : Obligations.ReadRecordsTheHandlersByte := by
  intro a s
  rw [exec_read, operate_read_eq]
  simp only [rangeOf_eq_apuStatus]

/-- Settles O27, dispatched by the address's range. -/
theorem writeRecordsTheByteEverywhere : Obligations.WriteRecordsTheByteEverywhere := by
  intro a v s
  rw [exec_write, operate_write_eq]

/-- Settles O28: a peek is a function that answers a byte only. -/
theorem peekChangesNoState : Obligations.PeekChangesNoState :=
  exec_peek

/-- READ of `0x4015`, whole: the APU's own state, `int`, the observer and the response (R103, R124). -/
theorem exec_read_apuStatus (s : State) :
    ∃ x p, (x, p) = Config.apuRead s.apu 0x4015 s.ext s.intMasked ∧ exec (.read 0x4015) s = .next { s with
      apu := p, int := x, observer := called s.observer 0x4015 x false, resp := .byte x } :=
  ⟨_, _, rfl, readRecordsTheHandlersByte 0x4015 s⟩

/-- Settles O31: the READ of `0x4015` changes neither `ext` nor what serves an address, and the unmapped READ after it
answers `ext`. -/
theorem apuStatusReadDoesNotReachTheOpenBus : Obligations.ApuStatusReadDoesNotReachTheOpenBus := by
  intro s b unmapped
  obtain ⟨x, p, -, read⟩ := exec_read_apuStatus s
  have still : State.unmapped { s with
      apu := p, int := x, observer := called s.observer 0x4015 x false, resp := .byte x } b = true := unmapped
  obtain ⟨again, -⟩ := unmappedReadsReturnTheOpenBus b _ still
  exact ⟨_, x, read, rfl, rfl, rfl, _, again, rfl, rfl, rfl⟩

end Sys2Proof.Machine

namespace Sys2Proof.Machine

/-! ### The ADDR rows of one handler (`41_handlers.md` R120 to R129, R133 to R135) -/

/-- READ, WRITE and PEEK of a range, from what its handler answers to the read. -/
theorem operate_of_hRead_eq {r : Range} {a : Addr} {s t : State} {x : Byte} (answer : hRead r.handler a s = (x, t)) :
    operate r a .read s = { t with
      ext := if r = .apuStatus then s.ext else x,
      int := if r = .apuStatus then x else s.int,
      observer := called s.observer a x false,
      resp := .byte x } ∧
    (∀ v : Byte, operate r a (.write v) s = { hWrite r.handler a v { s with ext := v } with
      ext := v, int := s.int, observer := called s.observer a v true, resp := .nothing }) ∧
    operate r a .peek s = { s with resp := .byte (hPeek r.handler a s) } := by
  refine ⟨?_, fun v => operate_write_eq r a v s, rfl⟩
  rw [operate_read_eq, answer]

/-- Settles O12: the RAM handler answers the byte at the offset, and its write replaces that byte. -/
theorem ramRowServesOneByte : Obligations.RamRowServesOneByte := by
  intro a s
  have runs : ∀ c, exec (.ram a c) s = .next (operate .ram a c s) := fun _ => rfl
  obtain ⟨read, write, peek⟩ := operate_of_hRead_eq (r := .ram) (a := a) (s := s) rfl
  rw [← ramOffset_eq]
  simp only [runs, Host.Outcome.next.injEq]
  refine ⟨?_, fun v => ⟨_, write v, fun k => Memory.read_write .ram s.ram k _ v⟩⟩
  rintro _ rfl
  exact ⟨read, peek⟩

/-- Settles O14: the three rows are one handler; only the range APU_STATUS is recorded in `int`. -/
theorem apuRowsCallTheApu : Obligations.ApuRowsCallTheApu := by
  intro a s x p answer
  have handler : hRead .apu a s = (x, s.setApu p) := by
    simp only [hRead, apuRead, State.intMasked, ← answer]
  have runs4000 : ∀ c, exec (.apu4000 a c) s = .next (operate .apu a c s) := fun _ => rfl
  have runs4010 : ∀ c, exec (.apu4010 a c) s = .next (operate .apu a c s) := fun _ => rfl
  have runsStatus : ∀ c, exec (.apuStatus a c) s = .next (operate .apuStatus a c s) := fun _ => rfl
  obtain ⟨read, write, peek⟩ := operate_of_hRead_eq (r := .apu) handler
  obtain ⟨readStatus, writeStatus, peekStatus⟩ := operate_of_hRead_eq (r := .apuStatus) handler
  simp only [List.forall_mem_cons, List.not_mem_nil, false_implies, implies_true, and_true, runs4000, runs4010,
    runsStatus, Host.Outcome.next.injEq]
  exact ⟨readStatus, ⟨read, read⟩, ⟨write, peek⟩, ⟨write, peek⟩, writeStatus, peekStatus⟩

/-- Settles O15, from DmaRead's answer. -/
theorem oamDmaRowCallsTheDma : Obligations.OamDmaRowCallsTheDma := by
  intro a s x p answer
  have runs : ∀ c, exec (.oamDma a c) s = .next (operate .oamDma a c s) := fun _ => rfl
  have handler : hRead .oamDma a s = (x, s.setDma p) := by simp only [hRead, dmaRead, ← answer]
  simp only [runs, Host.Outcome.next.injEq]
  exact operate_of_hRead_eq (r := .oamDma) handler

/-- Settles O16, from CtrlRead's answer. -/
theorem controllerRowCallsTheControllers : Obligations.ControllerRowCallsTheControllers := by
  intro a s x p answer
  have runs : ∀ c, exec (.controller a c) s = .next (operate .controller a c s) := fun _ => rfl
  have handler : hRead .controller a s = (x, s.setCtrl p) := by simp only [hRead, ctrlRead, ← answer]
  simp only [runs, Host.Outcome.next.injEq]
  exact operate_of_hRead_eq (r := .controller) handler

/-- Settles O17: the fallback handler answers `ext`, so the latch update puts back what is there. -/
theorem openBusRowReturnsTheLatch : Obligations.OpenBusRowReturnsTheLatch := by
  intro a s
  have runs : ∀ c, exec (.openBus a c) s = .next (operate .openBus a c s) := fun _ => rfl
  have handler : hRead .openBus a s = (s.ext, s) := rfl
  simp only [runs, Host.Outcome.next.injEq]
  exact operate_of_hRead_eq (r := .openBus) handler

end Sys2Proof.Machine

namespace Sys2Proof.Machine

/-! ### The composite accesses (`42_vector_dummy.md` R150 to R156) -/

/-- READ is one `BusRead`, its byte on the response port. -/
theorem exec_read_eq_busRead (a : Addr) (s : State) :
    exec (.read a) s = .next ((busRead a s).2.setResp (.byte (busRead a s).1)) := rfl

/-- The dispatcher's read does not look at the response port. -/
theorem busRead_setResp (a : Addr) (s : State) (r : Response) :
    busRead a (s.setResp r) = ((busRead a s).1, (busRead a s).2.setResp r) := by
  simp only [busRead, hRead_setResp, record_eq]
  rfl

/-- Nor does READ, which puts its own byte there. -/
theorem exec_read_setResp (a : Addr) (s : State) (r : Response) : exec (.read a) (s.setResp r) = exec (.read a) s := by
  rw [exec_read_eq_busRead, busRead_setResp]
  rfl

theorem combine_eq_append (hi lo : Byte) : combine hi lo = hi ++ lo := by
  rw [← BitVec.toNat_inj, combine_toNat, BitVec.toNat_append, ← Nat.shiftLeft_add_eq_or_of_lt lo.isLt,
    Nat.shiftLeft_eq]

/-- The two accesses of a 16-bit read are READs: that the first one leaves its byte on the response port is seen neither
by the environment's moves nor by the second one (R150, R151, D9, D20). -/
theorem busReadPair_eq_reads (lo hi : Addr) (s : State) : ∃ t u x y,
    exec (.read lo) s = .next t ∧ t.resp = .byte x ∧
    exec (.read hi) (between false t) = .next u ∧ u.resp = .byte y ∧
    (busReadPair lo hi s).2.setResp (.word (busReadPair lo hi s).1) = { u with resp := .word (y ++ x) } := by
  have second := exec_read_eq_busRead hi (between false (busRead lo s).2)
  rw [← exec_read_setResp hi _ (.byte (busRead lo s).1), ← between_setResp] at second
  refine ⟨_, _, _, _, exec_read_eq_busRead lo s, rfl, second, rfl, ?_⟩
  rw [← combine_eq_append]
  rfl

/-- READ16BUG's second address without masks: at the page's last address, back to the page's first (R77). -/
theorem hiAddrBug_eq (a : Addr) : hiAddrBug a = if a.toNat % 0x100 = 0xFF then a - 0xFF else a + 1 := by
  rw [← BitVec.toNat_inj, hiAddrBug_toNat]
  split <;> bv_omega

/-- Settles O38: READ16 is the pair of reads at `a` and `a + 1`. -/
theorem read16IsTwoReads : Obligations.Read16IsTwoReads := by
  intro a s
  obtain ⟨t, u, lo, hi, first, low, second, high, pair⟩ := busReadPair_eq_reads a (hiAddr a) s
  exact ⟨t, u, lo, hi, first, low, second, high, congrArg Host.Outcome.next pair⟩

/-- Settles O39: READ16BUG is the pair of reads whose second address stays in the page. -/
theorem read16BugStaysInThePage : Obligations.Read16BugStaysInThePage := by
  intro a s
  obtain ⟨t, u, lo, hi, first, low, second, high, pair⟩ := busReadPair_eq_reads a (hiAddrBug a) s
  exact ⟨t, u, lo, hi, first, low, hiAddrBug_eq a ▸ second, high, congrArg Host.Outcome.next pair⟩

/-- Settles O40: both are one `BusRead`, and differ in the response alone. -/
theorem dummyReadIsAReadWithoutItsValue : Obligations.DummyReadIsAReadWithoutItsValue :=
  fun a s => ⟨_, exec_read_eq_busRead a s, rfl⟩

/-- DUMMYWRITE is a WRITE of the fetched byte, the environment's moves before it (R153, D20). -/
theorem exec_dummywrite (a : Addr) (s : State) :
    exec (.dummywrite a) s = exec (.write a (fetchNoLatch a s).1)
      (between (controlAddr (rangeOf a) a) (fetchNoLatch a s).2) := rfl

/-- What the handler's read alone leaves is what READ leaves, with both latches, the observer and the response put back
(R156). -/
theorem hRead_snd_eq_operate_read (r : Range) (a : Addr) (s : State) :
    (hRead r.handler a s).2 = { operate r a .read s with
      ext := s.ext, int := s.int, observer := s.observer, resp := s.resp } := by
  have same := hRead_sameOutside r.handler a s
  rw [operate_read_eq, ← same.ext, ← same.int, ← same.observer, ← same.resp]

/-- Settles O41: the mode decides which of the handler's two capabilities fetches the byte. -/
theorem dummyWriteWritesBackTheFetchedByte : Obligations.DummyWriteWritesBackTheFetchedByte := by
  refine ⟨fun a s mode => ?_, fun a s mode => ?_⟩
  · have fetched : fetchNoLatch a s = (hPeek (rangeOf a).handler a s, s) := by rw [fetchNoLatch, mode]
    refine ⟨_, _, _, exec_peek a s, rfl, exec_write a _ _, ?_⟩
    rw [exec_dummywrite, fetched, exec_write]
  · have fetched : fetchNoLatch a s = hRead (rangeOf a).handler a s := by rw [fetchNoLatch, mode]
    refine ⟨_, (hRead (rangeOf a).handler a s).1, _, exec_read a s, rfl, exec_write a _ _, ?_⟩
    rw [exec_dummywrite, fetched, hRead_snd_eq_operate_read, exec_write]

theorem busWrite_ext (a : Addr) (v : Byte) (s : State) : (busWrite a v s).ext = v :=
  (hWrite_sameOutside _ a v (s.setExt v)).ext

/-- Settles O42: the fetched byte is the one that is there, and the WRITE puts it back. -/
theorem dummyWriteOfRamKeepsTheByte : Obligations.DummyWriteOfRamKeepsTheByte := by
  intro a s ha
  refine ⟨_, rfl, ?_, busDummyWrite_int a s, busDummyWrite_ram_byte a s⟩
  calc (busDummyWrite a s).ext
    _ = (fetchNoLatch a s).1 := busWrite_ext a _ _
    _ = s.ramByte a := fetchNoLatch_of_ram ((handler_eq_ram a).mpr ha) s

/-- Settles O43: READ and DUMMYWRITE leave RAM as it is and the byte in `ext`; the WRITE replaces the byte at the offset
(R155). -/
theorem readModifyWriteSequence : Obligations.ReadModifyWriteSequence := by
  intro a s f ha
  obtain ⟨read, -⟩ := readOfRamChangesOnlyTheLatch a s ha
  obtain ⟨u, dummy, byte, -, kept⟩ := dummyWriteOfRamKeepsTheByte a _ ha
  obtain ⟨m, write, stored⟩ := writeOfRamStoresOneByte a (f (s.ramByte a)) u ha
  refine ⟨_, u, _, read, rfl, rfl, dummy, byte, write, rfl, fun k => ?_⟩
  rw [stored, kept]

end Sys2Proof.Machine

namespace Sys2Proof.Machine

/-! ### A frame whose set was cancelled (`43_ppu_registers.md` R183) -/

/-- A dark state inside an operation: what the environment still does there ends no frame either. -/
structure State.DarkInside (s : State) : Prop where
  dark : s.Dark
  mid : s.mid.all (fun e => e != .frameBoundary) = true

theorem nmiLine_of_flag_clear {p : Ppu} (h : p.vblankFlag = false) : nmiLine p = false := by
  rw [nmiLine, h, Bool.false_and]

/-- What leaves the VBlank machine and the inbox as they are leaves the frame dark. -/
theorem State.Dark.of_same {s t : State} (hs : s.Dark) (same : SameVblank s.ppu t.ppu) (inbox : t.inbox = s.inbox) :
    t.Dark :=
  ⟨same.vblState.trans hs.state, same.vblankFlag.trans hs.flag, inbox ▸ hs.frame⟩

theorem SameVblank.refl (p : Ppu) : SameVblank p p := ⟨rfl, rfl, rfl, rfl⟩

/-- A status read finds no set to cancel and no VBlank to end in a frame whose set is cancelled (R172). -/
theorem statusRead_vblState_of_suppressed {p : Ppu} (h : p.vblState = .suppressedThisFrame) (now : Cycle) :
    (statusRead now p).vblState = .suppressedThisFrame := by
  obtain ⟨old, -⟩ | ⟨old, -⟩ | ⟨-, state, -⟩ := statusRead_cases now p
  · cases h.symm.trans old
  · cases h.symm.trans old
  · exact state.trans h

theorem State.Dark.hRead {s : State} (hs : s.Dark) (h : Handler) (a : Addr) : (hRead h a s).2.Dark := by
  obtain e | ⟨-, -, e⟩ | ⟨_, e⟩ | ⟨_, e⟩ | ⟨_, e⟩ | ⟨_, e⟩ | ⟨_, _, -, e⟩ := hRead_cases h a s <;> rw [e]
  case inr.inl => exact ⟨statusRead_vblState_of_suppressed hs.state _, rfl, hs.frame⟩
  all_goals exact hs.of_same ⟨rfl, rfl, rfl, rfl⟩ rfl

theorem State.Dark.hWrite {s : State} (hs : s.Dark) (h : Handler) (a : Addr) (v : Byte) : (hWrite h a v s).Dark := by
  obtain e | ⟨-, e⟩ | ⟨-, -, e⟩ | ⟨_, e⟩ | ⟨_, e⟩ | ⟨_, e⟩ | ⟨_, e⟩ | ⟨_, _, -, e⟩ | ⟨_, -, -, e⟩ :=
    hWrite_cases h a v s <;> rw [e]
  case inr.inr.inl => exact hs.of_same (controlWrite_sameVblank v s.ppu) rfl
  all_goals exact hs.of_same ⟨rfl, rfl, rfl, rfl⟩ rfl

/-- Of the timer's events only the frame boundary leaves `SuppressedThisFrame`: the late `SetDue` is "skipped entirely"
(R182, R183). -/
theorem State.Dark.deliver {e : Event} {s t : State} (hs : s.Dark) (he : e ≠ .frameBoundary)
    (h : deliver e s = .ok t) : t.Dark := by
  have state := hs.state
  obtain ⟨_, -, -, -, rfl⟩ | ⟨_, -, -, other, -, rfl⟩ | ⟨-, -, other, rfl⟩ | ⟨-, -, -, rfl⟩ | ⟨-, -, other, rfl⟩ |
    ⟨-, -, -, rfl⟩ | ⟨boundary, -, -, rfl⟩ | ⟨boundary, -, -, rfl⟩ | rfl | ⟨_, _, rfl⟩ | ⟨_, rfl⟩ | ⟨_, rfl⟩ |
    ⟨_, rfl⟩ | ⟨_, rfl⟩ | ⟨_, _, -, rfl⟩ := deliver_cases h
  case inr.inl | inr.inr.inl | inr.inr.inr.inr.inl => cases state.symm.trans other
  case inr.inr.inr.inr.inr.inr.inl | inr.inr.inr.inr.inr.inr.inr.inl => exact absurd boundary he
  all_goals exact hs.of_same ⟨rfl, rfl, rfl, rfl⟩ rfl

/-- The moves between two accesses keep the frame dark, and what of them waits is a part of them. -/
theorem State.Dark.deliverAll {s : State} (hs : s.Dark) (late : Bool) {es : List Event}
    (hes : es.all (fun e => e != .frameBoundary) = true) : (deliverAll late es s).DarkInside := by
  induction es generalizing s with
  | nil => exact ⟨hs.of_same (.refl _) rfl, rfl⟩
  | cons e es ih =>
    have waits : (s.setMid (e :: es)).DarkInside := ⟨hs.of_same (.refl _) rfl, hes⟩
    obtain ⟨he, hes⟩ := Bool.and_eq_true_iff.mp (List.all_cons.symm.trans hes)
    simp only [Machine.deliverAll]
    split
    · rename_i t delivered
      split
      · exact ih (hs.deliver (bne_iff_ne.mp he) delivered) hes
      · exact waits
    · exact waits

theorem State.DarkInside.exec {i : Instr} {s t : State} (hs : s.DarkInside) (h : exec i s = .next t) :
    t.DarkInside := by
  refine exec_keeps (fun h a u hu => ⟨hu.dark.hRead h a, ?_⟩) (fun h a v u hu => ⟨hu.dark.hWrite h a v, ?_⟩)
    (fun _ _ hu => ⟨hu.dark.of_same (.refl _) rfl, hu.mid⟩) (fun _ _ hu => ⟨hu.dark.of_same (.refl _) rfl, hu.mid⟩)
    (fun _ _ _ _ hu => ⟨hu.dark.of_same (.refl _) rfl, hu.mid⟩)
    (fun _ _ hu => ⟨hu.dark.of_same (.refl _) rfl, hu.mid⟩) (fun late u hu => hu.dark.deliverAll late hu.mid) hs h
  · rw [(hRead_sameOutside h a u).mid]; exact hu.mid
  · rw [(hWrite_sameOutside h a v u).mid]; exact hu.mid

/-- The moves that found no place inside an operation come next, and end no frame. -/
theorem State.DarkInside.retire {s : State} (hs : s.DarkInside) : (retire s).Dark := by
  refine ⟨hs.dark.state, hs.dark.flag, ?_⟩
  change (s.mid.map Input.event ++ s.inbox).all Input.withinFrame = true
  rw [List.all_append, List.all_map, hs.dark.frame, Bool.and_true]
  exact hs.mid

/-- Taking the head of the inbox leaves the frame dark, and the head ends no frame. -/
theorem State.Dark.of_inbox_cons {s : State} (hs : s.Dark) {x : Input} {rest : List Input}
    (hin : s.inbox = x :: rest) : x.withinFrame = true ∧ State.Dark { s with inbox := rest } := by
  obtain ⟨head, tail⟩ : x.withinFrame = true ∧ rest.all Input.withinFrame = true := by
    rw [← Bool.and_eq_true_iff, ← List.all_cons, ← hin]; exact hs.frame
  exact ⟨head, hs.state, hs.flag, tail⟩

theorem State.Dark.step {s t : State} (hs : s.Dark) (h : step s = .next t) : t.Dark := by
  obtain ⟨-, rfl⟩ | ⟨_, _, es, rest, _, u, hin, -, -, run, rfl⟩ | ⟨e, rest, hin, run⟩ | ⟨c, rest, hin, -, rfl⟩ :=
    step_cases h
  · exact hs
  · obtain ⟨moves, taken⟩ := hs.of_inbox_cons hin
    have inside : State.DarkInside { s with inbox := rest, mid := es } := ⟨taken.of_same (.refl _) rfl, moves⟩
    exact (inside.exec run).retire
  · obtain ⟨event, taken⟩ := hs.of_inbox_cons hin
    exact taken.deliver (bne_iff_ne.mp event) run
  · obtain ⟨-, taken⟩ := hs.of_inbox_cons hin
    exact taken.of_same (.refl _) rfl

/-- Settles O53: nothing a step is made of leaves `SuppressedThisFrame` or sets the flag, but the frame boundary, and
none is among the inputs. -/
theorem cancelledFrameStaysDark : Obligations.CancelledFrameStaysDark :=
  fun _ _ hs h => ⟨hs.step h, nmiLine_of_flag_clear (hs.step h).flag⟩

end Sys2Proof.Machine

namespace Sys2Proof.Machine

/-! ### The flags -/

theorem flagBit_getLsbD (k : Nat) (f : Bool) {n : Nat} (hn : n < 8) :
    (flagBit k f).getLsbD n = (decide (n = k) && f) := by
  cases f with
  | false => simp [flagBit]
  | true =>
    have power : flagBit k true = BitVec.twoPow 8 k := rfl
    rw [power, BitVec.getLsbD_twoPow]
    obtain rfl | other := eq_or_ne n k
    · simp [hn]
    · simp [other, other.symm]

/-- The status byte, bit by bit. -/
theorem statusByte_getLsbD (p : Ppu) (ext : Byte) {n : Nat} (hn : n < 8) :
    (statusByte p ext).getLsbD n = (decide (n = 7) && p.vblankFlag || decide (n = 6) && p.sprite0Hit ||
      decide (n = 5) && p.spriteOverflow || ext.getLsbD n && decide (n < 5)) := by
  have low : ∀ n, n < 8 → (0x1F : Byte).getLsbD n = decide (n < 5) := by decide
  simp only [statusByte, BitVec.getLsbD_or, BitVec.getLsbD_and, flagBit_getLsbD _ _ hn, low n hn]

/-- Settles O19, from the bits of the three flags and of the mask. -/
theorem statusByteLayout : Obligations.StatusByteLayout := by
  refine fun p ext => ⟨?_, ?_, ?_, fun n hn => ?_⟩
  · rw [statusByte_getLsbD p ext (by decide)]; simp
  · rw [statusByte_getLsbD p ext (by decide)]; simp
  · rw [statusByte_getLsbD p ext (by decide)]; simp
  · rw [statusByte_getLsbD p ext (by omega)]
    simp [hn, show n ≠ 7 by omega, show n ≠ 6 by omega, show n ≠ 5 by omega]

/-- The PPU after a status read, whole (R172). -/
theorem statusRead_eq (now : Cycle) (p : Ppu) :
    statusRead now p = { p with
      vblankFlag := false
      lastReadCycle := now
      preventSetCycle := if p.vblState = .setPending now then some now else p.preventSetCycle
      vblState :=
        if p.vblState = .setPending now then .suppressedThisFrame
        else if p.vblState = .active then .clear else p.vblState } := by
  unfold statusRead afterStatusRead
  cases state : p.vblState with
  | setPending c =>
    by_cases due : now = c
    · simp [due]
    · simp [due, Ne.symm due, state]
  | active => simp
  | clear => simp [state]
  | suppressedThisFrame => simp [state]

/-! ### The PPUREG rows, whole (`30_encoding.md` R78, `43_ppu_registers.md` R170 to R176) -/

/-- READ, WRITE and PEEK of a register touch nothing but the PPU, `ext`, the observer and the response. -/
theorem operatePpuReg_read_eq (n : BitVec 3) (a : Addr) (s : State) :
    operatePpuReg n a .read s = { s with
      ppu := (ppuRead n s).2.ppu, ext := (ppuRead n s).1, observer := called s.observer a (ppuRead n s).1 false,
      resp := .byte (ppuRead n s).1 } := by
  simp only [operatePpuReg, record_eq]
  rw [ppuRead_frame]
  rfl

theorem operatePpuReg_write_eq (n : BitVec 3) (a : Addr) (v : Byte) (s : State) :
    operatePpuReg n a (.write v) s = { s with
      ppu := (ppuWrite n v s).ppu, ext := v, observer := called s.observer a v true, resp := .nothing } := by
  have ext : (ppuWrite n v (s.setExt v)).ppu = (ppuWrite n v s).ppu := by unfold ppuWrite; split <;> rfl
  simp only [operatePpuReg, store]
  rw [ppuWrite_frame, ext]
  rfl

theorem operatePpuReg_peek_eq (n : BitVec 3) (a : Addr) (s : State) :
    operatePpuReg n a .peek s = { s with resp := .byte (ppuPeek n s) } := rfl

/-- The eight registers' rows, in order. -/
def ppuRegisters : List (BitVec 3 × (Addr → Capability → Instr)) :=
  [(0, .ppureg0), (1, .ppureg1), (2, .ppureg2), (3, .ppureg3), (4, .ppureg4), (5, .ppureg5), (6, .ppureg6),
    (7, .ppureg7)]

theorem exec_ppuRegister {r : BitVec 3 × (Addr → Capability → Instr)} (hr : r ∈ ppuRegisters) (a : Addr)
    (c : Capability) (s : State) : exec (r.2 a c) s = .next (operatePpuReg r.1 a c s) := by
  revert r
  simp only [ppuRegisters, List.forall_mem_cons, List.not_mem_nil, false_implies, implies_true, and_true]
  and_intros <;> rfl

/-- Without the row of one register the list holds the rows of the others. -/
theorem ne_of_mem_ppuRegisters_eraseIdx {n : BitVec 3} {r : BitVec 3 × (Addr → Capability → Instr)}
    (hr : r ∈ ppuRegisters.eraseIdx n.toNat) : r.1 ≠ n := by
  have others : ∀ k : BitVec 3, ∀ m ∈ (ppuRegisters.map Prod.fst).eraseIdx k.toNat, m ≠ k := by decide
  refine others n r.1 ?_
  rw [List.eraseIdx_map]
  exact List.mem_map_of_mem hr

/-- Settles O20: register 2 answers the status byte and leaves the PPU as after a status read. -/
theorem statusRegisterReadClearsTheFlag : Obligations.StatusRegisterReadClearsTheFlag := by
  rintro a s _ rfl
  have runs : exec (.ppureg2 a .read) s = .next (operatePpuReg 2 a .read s) := rfl
  have answer : ppuRead 2 s = (statusByte s.ppu s.ext, s.setPpu (statusRead s.masterCycle s.ppu)) := if_pos rfl
  rw [runs, operatePpuReg_read_eq, answer, State.setPpu_ppu, statusRead_eq]

/-- Settles O21: register 0 takes the control write, which asks for the warm-up first. -/
theorem controlRegisterWriteNeedsWarmup : Obligations.ControlRegisterWriteNeedsWarmup := by
  intro a v s
  have runs : exec (.ppureg0 a (.write v)) s = .next (operatePpuReg 0 a (.write v) s) := rfl
  have takes : (ppuWrite 0 v s).ppu = controlWrite v s.ppu := rfl
  rw [runs, operatePpuReg_write_eq, takes]
  refine ⟨fun cold => ?_, fun warm => ?_⟩
  · simp only [controlWrite, cold, Bool.false_eq_true, if_false]
  · simp only [controlWrite, warm, if_true]

/-- Settles O22: beside the status register's read and the control register's write the PPU's own functions serve. -/
theorem otherPpuRegistersAreThePpusOwn : Obligations.OtherPpuRegistersAreThePpusOwn := by
  refine ⟨fun r hr a s x p answer => ?_, fun r hr a v s => ?_⟩
  · have other : r.1 ≠ 2 := ne_of_mem_ppuRegisters_eraseIdx hr
    rw [exec_ppuRegister (List.mem_of_mem_eraseIdx (i := 2) hr), operatePpuReg_read_eq, ppuRead, if_neg other,
      ← answer]
    rfl
  · have other : r.1 ≠ 0 := ne_of_mem_ppuRegisters_eraseIdx hr
    rw [exec_ppuRegister (List.mem_of_mem_eraseIdx (i := 0) hr), operatePpuReg_write_eq, ppuWrite, if_neg other]
    rfl

/-- Settles O23: a peek is a function that answers a byte only. -/
theorem ppuRegisterPeekMutatesNothing : Obligations.PpuRegisterPeekMutatesNothing := by
  refine ⟨fun _ _ => rfl, fun row hrow a s => ?_⟩
  obtain ⟨r, hr, rfl⟩ : ∃ r ∈ ppuRegisters.eraseIdx 2, r.2 = row := List.mem_map.mp hrow
  have other : r.1 ≠ 2 := ne_of_mem_ppuRegisters_eraseIdx hr
  rw [exec_ppuRegister (List.mem_of_mem_eraseIdx hr), operatePpuReg_peek_eq, ppuPeek, if_neg other]

/-! ### Accesses to an image of a register -/

theorem ppuReg_eq_iff (a : Addr) (n : BitVec 3) : ppuReg a = n ↔ a.toNat % 8 = n.toNat := by
  rw [← BitVec.toNat_inj, ppuReg_toNat]

theorem rangeOf_eq_ppu (a : Addr) : rangeOf a = .ppu ↔ 0x2000 ≤ a.toNat ∧ a.toNat ≤ 0x3FFF := by
  obtain ⟨-, ppu, -⟩ := rangeFollowsTheAddressMap a
  exact ppu

/-- READ, WRITE and PEEK of an image of register 2 are those of the register's row. -/
theorem exec_requestOf_status {a : Addr} (range : rangeOf a = .ppu) (reg : a.toNat % 8 = 2) (c : Capability)
    (s : State) : exec (requestOf c a) s = exec (.ppureg2 a c) s := by
  rw [exec_requestOf, range, ← operatePpuReg_eq ((ppuReg_eq_iff a 2).mpr reg)]
  rfl

/-- Settles O24: the READ is that of register 2's row, and so is the PEEK. -/
theorem statusReadsClearAndPeeksDoNot : Obligations.StatusReadsClearAndPeeksDoNot := by
  intro a s low high reg
  have image := exec_requestOf_status ((rangeOf_eq_ppu a).mpr ⟨low, high⟩) reg
  obtain ⟨peek, -⟩ := ppuRegisterPeekMutatesNothing
  exact ⟨⟨_, (image .read s).trans (statusRegisterReadClearsTheFlag a s _ rfl), rfl, rfl, rfl, rfl,
    nmiLine_of_flag_clear rfl, rfl⟩, _, (image .peek s).trans (peek a s), rfl, rfl, rfl⟩

/-- Settles O52: the status read of a pending set finds the flag clear and cancels the set; a request that must come
before the `SetDue` of its cycle is refused after it; and the moves inside an operation stop before such a `SetDue`. -/
theorem raceWindowReadCancelsTheSet : Obligations.RaceWindowReadCancelsTheSet := by
  refine ⟨fun a s range reg hs pending => ?_, fun s delivered a es rest op hop v hin => ?_, fun s before => ?_⟩
  · have clear : s.ppu.vblankFlag = false :=
      Bool.eq_false_iff.mpr fun set => by cases pending.symm.trans (hs.ppu.flag.mp set)
    obtain ⟨bit, -⟩ := statusByteLayout s.ppu s.ext
    exact ⟨_, _, (exec_requestOf_status range reg .read s).trans (statusRegisterReadClearsTheFlag a s _ rfl), rfl,
      bit.trans clear, if_pos pending, if_pos pending, rfl, nmiLine_of_flag_clear rfl⟩
  · have late : followsSet ((requestRows a v)[op.toNat]'op.isLt) = false := by
      clear hin
      revert op
      simp only [List.forall_mem_cons, List.not_mem_nil, false_implies, implies_true, and_true]
      exact ⟨rfl, rfl, rfl, rfl⟩
    obtain ⟨-, refused⟩ := stepRunsTheDecodedRequest s .req _ es rest _ hin (decode_reqWord op a v)
    exact refused delivered late
  · have admitted := deliverAll_admits false s.mid ((State.admits_iff false s).mpr (.inl before))
    exact ((State.admits_iff false _).mp admitted).resolve_right nofun

end Sys2Proof.Machine

namespace Sys2Proof.Machine

/-! ### What raises the NMI line (`43_ppu_registers.md` R180) -/

/-- No handler's read raises the line: of those that touch the PPU the status read clears the flag, and the others
leave the line's two inputs. -/
theorem hRead_nmiLine_low {s : State} (low : nmiLine s.ppu = false) (h : Handler) (a : Addr) :
    nmiLine (hRead h a s).2.ppu = false := by
  obtain e | ⟨-, -, e⟩ | ⟨_, e⟩ | ⟨_, e⟩ | ⟨_, e⟩ | ⟨_, e⟩ | ⟨_, _, -, e⟩ := hRead_cases h a s <;> rw [e]
  case inr.inl => exact nmiLine_of_flag_clear rfl
  all_goals exact low

/-- Only the control register's write raises the line. -/
theorem hWrite_raises_nmiLine {h : Handler} {a : Addr} {v : Byte} {s : State} (low : nmiLine s.ppu = false)
    (rise : nmiLine (hWrite h a v s).ppu = true) : h = .ppu ∧ ppuReg a = 0 := by
  have still : ¬ nmiLine s.ppu = true := Bool.eq_false_iff.mp low
  obtain e | ⟨-, e⟩ | ⟨ppu, reg, -⟩ | ⟨_, e⟩ | ⟨_, e⟩ | ⟨_, e⟩ | ⟨_, e⟩ | ⟨_, _, -, e⟩ | ⟨_, -, -, e⟩ :=
    hWrite_cases h a v s
  case inr.inr.inl => exact ⟨ppu, reg⟩
  all_goals rw [e] at rise; exact absurd rise still

theorem handler_eq_ppu (r : Range) : r.handler = .ppu ↔ r = .ppu := by
  cases r <;> simp [Range.handler]

theorem record_ppu (r : Range) (a : Addr) (p : Byte × State) : (record r a p).2.ppu = p.2.ppu := by
  rw [record_eq]

/-- Of READ, WRITE and PEEK, dispatched by any range, only a WRITE of the control register raises the line. -/
theorem operate_raises_nmiLine {r : Range} {a : Addr} {c : Capability} {s : State} (low : nmiLine s.ppu = false)
    (rise : nmiLine (operate r a c s).ppu = true) : (∃ v, c = .write v) ∧ r = .ppu ∧ ppuReg a = 0 := by
  cases c with
  | read =>
    have still : nmiLine (operate r a .read s).ppu = false := by
      simp only [operate, State.setResp_ppu, record_ppu]
      exact hRead_nmiLine_low low r.handler a
    cases still.symm.trans rise
  | write v =>
    obtain ⟨handler, reg⟩ := hWrite_raises_nmiLine (s := s.setExt v) low rise
    exact ⟨⟨v, rfl⟩, (handler_eq_ppu r).mp handler, reg⟩
  | peek => cases low.symm.trans rise

/-- A register's row is the PPU row at an image of the register, but for the address the observer is told. -/
theorem operatePpuReg_raises_nmiLine {n : BitVec 3} {a : Addr} {c : Capability} {s : State}
    (low : nmiLine s.ppu = false) (rise : nmiLine (operatePpuReg n a c s).ppu = true) :
    (∃ v, c = .write v) ∧ n = 0 := by
  have image : (operatePpuReg n a c s).ppu = (operatePpuReg n (n.setWidth 16) c s).ppu := by cases c <;> rfl
  rw [image, operatePpuReg_eq (ppuReg_setWidth n)] at rise
  obtain ⟨write, -, reg⟩ := operate_raises_nmiLine low rise
  exact ⟨write, (ppuReg_setWidth n).symm.trans reg⟩

theorem busRead_nmiLine_low {s : State} (low : nmiLine s.ppu = false) (a : Addr) :
    nmiLine (busRead a s).2.ppu = false := by
  rw [busRead, record_ppu]
  exact hRead_nmiLine_low low _ a

theorem busRead_mid (a : Addr) (s : State) : (busRead a s).2.mid = s.mid := by
  rw [busRead, record_eq]
  exact (hRead_sameOutside _ a s).mid

/-- With no moves between them two READs raise the line no more than one. -/
theorem busReadPair_nmiLine_low {s : State} (still : s.mid = []) (low : nmiLine s.ppu = false) (lo hi : Addr) :
    nmiLine (busReadPair lo hi s).2.ppu = false := by
  have second := busRead_nmiLine_low (busRead_nmiLine_low low lo) hi
  rwa [← between_of_mid_nil ((busRead_mid lo s).trans still) false] at second

theorem fetchNoLatch_nmiLine_low {s : State} (low : nmiLine s.ppu = false) (a : Addr) :
    nmiLine (fetchNoLatch a s).2.ppu = false := by
  unfold fetchNoLatch
  split
  · exact low
  · exact hRead_nmiLine_low low _ a

theorem fetchNoLatch_mid (a : Addr) (s : State) : (fetchNoLatch a s).2.mid = s.mid := by
  unfold fetchNoLatch
  split
  · rfl
  · exact (hRead_sameOutside _ a s).mid

/-- Settles O49: no read raises the line, and of the writes only the control register's. -/
theorem onlyControlWritesRaiseTheNmiLine : Obligations.OnlyControlWritesRaiseTheNmiLine := by
  intro i s t still run low rise
  cases i
  case read a | dummyread a =>
    cases run; cases (busRead_nmiLine_low low a).symm.trans rise
  case read16 a | read16bug a =>
    cases run; cases (busReadPair_nmiLine_low still low a _).symm.trans rise
  case peek a => cases run; cases low.symm.trans rise
  case reservedOp7 => cases run
  case write a v =>
    cases run
    obtain ⟨-, range, reg⟩ := operate_raises_nmiLine low rise
    exact .inl ⟨a, v, rfl, range, (ppuReg_eq_iff a 0).mp reg⟩
  case dummywrite a =>
    rw [exec_dummywrite, between_of_mid_nil ((fetchNoLatch_mid a s).trans still)] at run
    cases run
    obtain ⟨-, range, reg⟩ := operate_raises_nmiLine (fetchNoLatch_nmiLine_low low a) rise
    exact .inr <| .inl ⟨a, rfl, range, (ppuReg_eq_iff a 0).mp reg⟩
  case ppu a c =>
    cases run
    obtain ⟨⟨v, rfl⟩, -, reg⟩ := operate_raises_nmiLine low rise
    exact .inr <| .inr <| .inl ⟨a, v, rfl, (ppuReg_eq_iff a 0).mp reg⟩
  case ppureg0 a c =>
    cases run
    obtain ⟨⟨v, rfl⟩, -⟩ := operatePpuReg_raises_nmiLine low rise
    exact .inr <| .inr <| .inr ⟨a, v, rfl⟩
  case ppureg1 | ppureg2 | ppureg3 | ppureg4 | ppureg5 | ppureg6 | ppureg7 =>
    cases run
    obtain ⟨-, control⟩ := operatePpuReg_raises_nmiLine low rise
    exact absurd control (by decide)
  all_goals
    cases run
    obtain ⟨-, ppu, -⟩ := operate_raises_nmiLine low rise
    cases ppu

end Sys2Proof.Machine

namespace Sys2Proof.Machine

/-! ### What the observer is told (`60_exceptions.md` R210) -/

@[simp] theorem called_some (calls : List ObserverCall) (a : Addr) (x : Byte) (w : Bool) :
    called (some calls) a x w = some (calls ++ [⟨a, x, w⟩]) := rfl

/-- READ tells the observer the byte it answers. -/
theorem observer_of_exec_read {a : Addr} {s t : State} {x : Byte} (run : exec (.read a) s = .next t)
    (answer : t.resp = .byte x) : t.observer = called s.observer a x false := by
  rw [exec_read, operate_read_eq] at run
  cases run
  cases answer
  rfl

/-- The environment's moves between the two READs of a 16-bit read tell the observer nothing, so it sees the low byte's
access and then the high byte's. -/
theorem busReadPair_observer (lo hi : Addr) (s : State) : ∃ x y,
    (busReadPair lo hi s).1 = y ++ x ∧
    (busReadPair lo hi s).2.observer = called (called s.observer lo x false) hi y false := by
  obtain ⟨t, u, x, y, first, low, second, high, pair⟩ := busReadPair_eq_reads lo hi s
  refine ⟨x, y, Response.word.inj (congrArg State.resp pair), ?_⟩
  calc (busReadPair lo hi s).2.observer
    _ = u.observer := by simpa using congrArg State.observer pair
    _ = called (between false t).observer hi y false := observer_of_exec_read second high
    _ = called t.observer hi y false := by rw [(between_sameInside false t).observer]
    _ = called (called s.observer lo x false) hi y false := by rw [observer_of_exec_read first low]

/-- The read half of a DUMMYWRITE calls no observer (R156). -/
theorem fetchNoLatch_observer (a : Addr) (s : State) : (fetchNoLatch a s).2.observer = s.observer := by
  unfold fetchNoLatch
  split
  · rfl
  · exact (hRead_sameOutside _ a s).observer

/-- DUMMYWRITE tells the observer of its WRITE alone, whose byte is then in `ext`. -/
theorem busDummyWrite_observer (a : Addr) (s : State) :
    (busDummyWrite a s).observer = called s.observer a (busDummyWrite a s).ext true := by
  rw [busDummyWrite, busWrite_ext]
  calc (busWrite a (fetchNoLatch a s).1 _).observer
    _ = called (between (controlAddr (rangeOf a) a) (fetchNoLatch a s).2).observer a _ true :=
      congrArg State.observer (operate_write_eq (rangeOf a) a _ _)
    _ = called s.observer a _ true := by rw [(between_sameInside _ _).observer, fetchNoLatch_observer]

/-- Settles O47: a READ or a WRITE adds one call, and a composite access adds those of the READs and WRITEs it is made
of. -/
theorem observerSeesEachAccess : Obligations.ObserverSeesEachAccess := by
  intro s calls attached
  have pair (lo hi : Addr) : ∃ x y, (busReadPair lo hi s).1 = y ++ x ∧
      (busReadPair lo hi s).2.observer = some (calls ++ [⟨lo, x, false⟩, ⟨hi, y, false⟩]) := by
    simpa [attached] using busReadPair_observer lo hi s
  refine ⟨fun a => ?read, fun a v => ?write, fun a => ?peek, fun a => ?read16, fun a => ?read16bug,
    fun a => ?dummyread, fun a => ?dummywrite⟩
  case read => exact ⟨_, _, readRecordsTheHandlersByte a s, rfl, by rw [attached, called_some]⟩
  case write => exact ⟨_, writeRecordsTheByteEverywhere a v s, by rw [attached, called_some]⟩
  case peek => exact ⟨_, exec_peek a s, attached⟩
  case read16 =>
    obtain ⟨x, y, word, observed⟩ := pair a (hiAddr a)
    exact ⟨_, x, y, rfl, congrArg Response.word word, observed⟩
  case read16bug =>
    obtain ⟨x, y, word, observed⟩ := pair a (hiAddrBug a)
    exact ⟨_, x, y, rfl, congrArg Response.word word, observed⟩
  case dummyread =>
    obtain ⟨t, read, dummy⟩ := dummyReadIsAReadWithoutItsValue a s
    rw [readRecordsTheHandlersByte a s] at read
    cases read
    exact ⟨_, dummy, by rw [attached, called_some]⟩
  case dummywrite =>
    have observed := busDummyWrite_observer a s
    rw [attached] at observed
    exact ⟨_, rfl, observed⟩

/-! ### Every operation completes (`60_exceptions.md` R200) -/

/-- Settles O44: the seven operations and the handler rows each answer a next state, and there is no reason for a
fault. -/
theorem everyOperationCompletes : Obligations.EveryOperationCompletes := by
  refine ⟨fun i s operation => ?_, fun _ r => nomatch r⟩
  by_cases request : i.format = .req
  · cases i
    case reservedOp7 => exact absurd rfl operation
    case read | write | peek | read16 | read16bug | dummyread | dummywrite => exact ⟨_, rfl⟩
    all_goals cases request
  · obtain ⟨_, _, _, run⟩ | ⟨_, _, _, run⟩ := exec_row request s
    · exact ⟨_, run⟩
    · exact ⟨_, run⟩

end Sys2Proof.Machine

namespace Sys2Proof.Machine

/-! ### Attaching a cartridge (`70_reset_and_hazards.md` R222) -/

theorem attachCartridge_of_absent {s : State} (absent : s.cart = none) (c : CartState) :
    attachCartridge c s = .ok { s with cart := some c } := by
  simp only [attachCartridge, absent]
  rfl

/-- There is no swap (D18, U19). -/
theorem attachCartridge_of_attached {s : State} (attached : s.cart.isSome = true) (c : CartState) :
    attachCartridge c s = .error .cartridgeAttached := by
  obtain ⟨p, present⟩ := Option.isSome_iff_exists.mp attached
  simp only [attachCartridge, present]

/-- An attach action is fetched as what it comes to in the state without it. -/
theorem fetch_of_attach {s : State} {c : CartState} {rest : List Input} (hin : s.inbox = .attach c :: rest) :
    fetch s = .ofEvent (attachCartridge c { s with inbox := rest }) := by
  simp only [fetch, hin]
  rfl

/-- Settles O58, by whether a cartridge is attached already. -/
theorem attachingACartridgeChangesNothingElse : Obligations.AttachingACartridgeChangesNothingElse := by
  intro s c rest hin
  have fetched := fetch_of_attach hin
  refine ⟨fun absent => ?_, fun attached => ?_⟩
  · rw [attachCartridge_of_absent (s := { s with inbox := rest }) absent] at fetched
    simp only [step, fetched, Fetched.ofEvent]
  · rw [attachCartridge_of_attached (s := { s with inbox := rest }) attached] at fetched
    simp only [step, fetched, Fetched.ofEvent]

end Sys2Proof.Machine
